-- ==== Sys2Proof/Word.lean ====
section
/-! DEFINITION. The widths of the machine's values (rules R9, R10, R18, R21, R22, R56): all are unsigned. -/

namespace Sys2Proof

/-- A memory byte, a V register, a timer or an immediate `nn` (R10, R18, R25, R38). -/
abbrev Byte := BitVec 8

/-- An instruction word, the index register or the program counter (R21, R22, R53). -/
abbrev Word := BitVec 16

/-- The 12-bit address operand `nnn` (R54, R56). -/
abbrev Addr := BitVec 12

/-- The 4-bit row count operand `n`, and any other nibble of a word (R54, R56). -/
abbrev Nibble := BitVec 4

/-- A register number: every value 0..15 names a register, so no register field is illegal (R18, R56). -/
abbrev Reg := Fin 16

/-- The register VF, which is also the flag register (R19). -/
abbrev Reg.vf : Reg := 15

end Sys2Proof
end

