-- ==== Sys2Proof/Config.lean ====
section
/-! DEFINITION. What an implementation fixes (the parameters of rule R8) and the one free value (R102). -/

namespace Sys2Proof

/-- The highest address of memory: `MEM_SIZE` is 4096 bytes, 0x000..0xFFF (R8, R38). -/
def Config.memTop : Nat := 0xFFF

/-- `FONT_BASE` (R8, decision D3). -/
def Config.fontBase : Nat := 0x000

/-- `ROM_BASE`, the load address and the entry point (R8, R144, decision D5). -/
def Config.romBase : Nat := 0x200

/-- `ROM_MAX` = 0xFFF - ROM_BASE = 3583 bytes (R8, R142, decision D5). -/
def Config.romMax : Nat := Config.memTop - Config.romBase

/-- The PC of a new core (R22, R35). -/
def Config.resetPc : Word := 0x200

/-- `UNKNOWN_OPCODE_POLICY` (R8, R60, decision D14): report the word and go on, or fault. -/
inductive UnknownPolicy where
  | continueRun
  | halt
  deriving DecidableEq, Repr

/-- The OPEN parameters that a cycle reads (R8, R60, R112). `FONT` is read only by Construct, which takes it as an
argument; `CYCLE_HZ` and `TICK_HZ` are not modelled (R8, decision D32). -/
structure Params where
  unknownPolicy  : UnknownPolicy
  keyClearOnRead : Bool
  deriving DecidableEq, Repr

/-- The spec's defaults for this hardware (R8): `continue` and `true`. -/
def Config.defaultParams : Params := { unknownPolicy := .continueRun, keyClearOnRead := true }

/-- FREE VALUE (R102, log entry 1): the random byte the environment gives to the k-th Cycle for which no byte was
named. It has no body, so nothing can be proved of it: every byte is a possible r. -/
opaque Config.randomByte : Nat → Byte

end Sys2Proof
end

