-- ==== Sys2Proof/Syntax.lean ====
section
/-! DEFINITION. The 34 instructions of the opcode map (rule R57), one constructor per row of spec/opcode_table.json,
in the table's order; operands are the fields of rule R54 that the row's format uses (R55). -/

namespace Sys2Proof

/-- An instruction. A word that matches no row is no instruction (R59): the decoder answers it by name. -/
inductive Instr where
  /-- 00E0 CLS: clear the framebuffer (R70). -/
  | cls
  /-- 00EE RET: return from a subroutine (R78). -/
  | ret
  /-- 1NNN JP nnn: jump (R79). -/
  | jp (nnn : Addr)
  /-- 2NNN CALL nnn: call a subroutine (R80). -/
  | call (nnn : Addr)
  /-- 3XNN SE Vx, nn: skip if VX equals nn (R81). -/
  | seByte (x : Reg) (nn : Byte)
  /-- 4XNN SNE Vx, nn: skip if VX differs from nn (R82). -/
  | sneByte (x : Reg) (nn : Byte)
  /-- 5XY0 SE Vx, Vy: skip if VX equals VY (R83). -/
  | seReg (x y : Reg)
  /-- 6XNN LD Vx, nn: load an immediate byte (R89). -/
  | ldByte (x : Reg) (nn : Byte)
  /-- 7XNN ADD Vx, nn: add an immediate byte, no flag (R90). -/
  | addByte (x : Reg) (nn : Byte)
  /-- 8XY0 LD Vx, Vy: assign (R91). -/
  | ldReg (x y : Reg)
  /-- 8XY1 OR Vx, Vy (R92). -/
  | orReg (x y : Reg)
  /-- 8XY2 AND Vx, Vy (R93). -/
  | andReg (x y : Reg)
  /-- 8XY3 XOR Vx, Vy (R94). -/
  | xorReg (x y : Reg)
  /-- 8XY4 ADD Vx, Vy: VF = carry (R95). -/
  | addReg (x y : Reg)
  /-- 8XY5 SUB Vx, Vy: VF = not borrow (R96). -/
  | subReg (x y : Reg)
  /-- 8XY6 SHR Vx, Vy: VX = VY >> 1, VF = VY bit 0 (R97). -/
  | shrReg (x y : Reg)
  /-- 8XY7 SUBN Vx, Vy: VX = VY - VX, VF = not borrow (R98). -/
  | subnReg (x y : Reg)
  /-- 8XYE SHL Vx, Vy: VX = VY << 1, VF = VY bit 7 (R99). -/
  | shlReg (x y : Reg)
  /-- 9XY0 SNE Vx, Vy: skip if VX differs from VY (R84). -/
  | sneReg (x y : Reg)
  /-- ANNN LD I, nnn: load the index register (R104). -/
  | ldI (nnn : Addr)
  /-- BNNN JP V0, nnn: jump to nnn plus V0 (R85). -/
  | jpV0 (nnn : Addr)
  /-- CXNN RND Vx, nn: random byte masked by nn (R100). -/
  | rnd (x : Reg) (nn : Byte)
  /-- DXYN DRW Vx, Vy, n: XOR an n-row sprite, VF = collision (R71). -/
  | drw (x y : Reg) (n : Nibble)
  /-- EX9E SKP Vx: skip if the key named by VX is down (R113). -/
  | skp (x : Reg)
  /-- EXA1 SKNP Vx: skip if the key named by VX is up (R114). -/
  | sknp (x : Reg)
  /-- FX07 LD Vx, DT: read the delay timer (R115). -/
  | ldVxDt (x : Reg)
  /-- FX0A LD Vx, K: wait for a key (R116). -/
  | ldVxK (x : Reg)
  /-- FX15 LD DT, Vx: set the delay timer (R117). -/
  | ldDtVx (x : Reg)
  /-- FX18 LD ST, Vx: set the sound timer (R118). -/
  | ldStVx (x : Reg)
  /-- FX1E ADD I, Vx (R105). -/
  | addI (x : Reg)
  /-- FX29 LD F, Vx: point I at the glyph of the digit in VX (R106). -/
  | ldF (x : Reg)
  /-- FX33 LD B, Vx: store the three decimal digits of VX (R107). -/
  | ldB (x : Reg)
  /-- FX55 LD [I], Vx: store V0..VX (R108). -/
  | storeRegs (x : Reg)
  /-- FX65 LD Vx, [I]: load V0..VX (R109). -/
  | loadRegs (x : Reg)
  deriving DecidableEq, Repr

end Sys2Proof
end

