-- ==== Sys2Proof/WellFormed.lean ====
section
/-! DEFINITION. What is well-formed. The operand types of `Instr` already carry every bound the spec gives (R56: a
register index is 0..15, `nn` 8 bits, `nnn` 12 bits, `n` 4 bits, and "every value names a register, so no register field
is illegal"), so no term of `Instr` is ill-formed. The one check that can refuse is the program's: a ROM must fit (R142). -/

namespace Sys2Proof

/-- Whether an instruction is well-formed: for each row, no operand value is illegal (R56). -/
def Instr.wellFormed : Instr → Bool
  | .cls => true
  | .ret => true
  | .jp _ => true
  | .call _ => true
  | .seByte _ _ => true
  | .sneByte _ _ => true
  | .seReg _ _ => true
  | .ldByte _ _ => true
  | .addByte _ _ => true
  | .ldReg _ _ => true
  | .orReg _ _ => true
  | .andReg _ _ => true
  | .xorReg _ _ => true
  | .addReg _ _ => true
  | .subReg _ _ => true
  | .shrReg _ _ => true
  | .subnReg _ _ => true
  | .shlReg _ _ => true
  | .sneReg _ _ => true
  | .ldI _ => true
  | .jpV0 _ => true
  | .rnd _ _ => true
  | .drw _ _ _ => true
  | .skp _ => true
  | .sknp _ => true
  | .ldVxDt _ => true
  | .ldVxK _ => true
  | .ldDtVx _ => true
  | .ldStVx _ => true
  | .addI _ => true
  | .ldF _ => true
  | .ldB _ => true
  | .storeRegs _ => true
  | .loadRegs _ => true

/-- Whether a ROM fits (R142): at most `ROM_MAX` bytes. -/
def romFits (rom : List Byte) : Bool := rom.length ≤ Config.romMax

end Sys2Proof
end

