-- ==== Sys2Proof/Decode.lean ====
section
/-! DEFINITION. The decoder (rules R53 to R59): a total function of the word that answers the instruction of the one row
it matches, or refuses the word by name; and the encoder, written from the same formats (R55, R57). -/

namespace Sys2Proof

/-- Why a byte string is no instruction: fewer than two bytes (every instruction is one 16-bit word, R53), or a word that
matches no row, `Unknown(w)` (R58, R59). -/
inductive DecodeError where
  | truncated
  | unknownOpcode (w : Word)
  deriving DecidableEq, Repr

/-- The tuple of fields that is extracted from every word (R54). -/
structure Fields where
  family : Nibble
  x      : Nibble
  y      : Nibble
  nn     : Byte
  nnn    : Addr
  n      : Nibble
  deriving DecidableEq, Repr

/-- Field extraction (R54): bit 0 is the least significant bit of the word. -/
def fieldsOf (w : Word) : Fields where
  family := w.extractLsb' 12 4
  x      := w.extractLsb' 8 4
  y      := w.extractLsb' 4 4
  nn     := w.extractLsb' 0 8
  nnn    := w.extractLsb' 0 12
  n      := w.extractLsb' 0 4

/-- The register a 4-bit field names (R56). -/
def regOf (f : Nibble) : Reg := f.toFin

/-- The 4-bit field that names a register (R56). -/
def regField (x : Reg) : Nibble := BitVec.ofFin x

/-- A row of the opcode map (R57): a word is the row's instruction when `w AND mask = match`. -/
structure EncodingRow where
  value : Word
  mask  : Word
  build : Fields → Instr

/-- Whether a word is the row's (R57). -/
def rowMatches (r : EncodingRow) (w : Word) : Bool := w &&& r.mask == r.value

/-- The opcode map (R57), row by row in the spec's order. -/
def encodingTable : List EncodingRow :=
  [ ⟨0x00E0, 0xFFFF, fun _ => .cls⟩
  , ⟨0x00EE, 0xFFFF, fun _ => .ret⟩
  , ⟨0x1000, 0xF000, fun f => .jp f.nnn⟩
  , ⟨0x2000, 0xF000, fun f => .call f.nnn⟩
  , ⟨0x3000, 0xF000, fun f => .seByte (regOf f.x) f.nn⟩
  , ⟨0x4000, 0xF000, fun f => .sneByte (regOf f.x) f.nn⟩
  , ⟨0x5000, 0xF00F, fun f => .seReg (regOf f.x) (regOf f.y)⟩
  , ⟨0x6000, 0xF000, fun f => .ldByte (regOf f.x) f.nn⟩
  , ⟨0x7000, 0xF000, fun f => .addByte (regOf f.x) f.nn⟩
  , ⟨0x8000, 0xF00F, fun f => .ldReg (regOf f.x) (regOf f.y)⟩
  , ⟨0x8001, 0xF00F, fun f => .orReg (regOf f.x) (regOf f.y)⟩
  , ⟨0x8002, 0xF00F, fun f => .andReg (regOf f.x) (regOf f.y)⟩ ]
  ++ [ ⟨0x8003, 0xF00F, fun f => .xorReg (regOf f.x) (regOf f.y)⟩
     , ⟨0x8004, 0xF00F, fun f => .addReg (regOf f.x) (regOf f.y)⟩
     , ⟨0x8005, 0xF00F, fun f => .subReg (regOf f.x) (regOf f.y)⟩
     , ⟨0x8006, 0xF00F, fun f => .shrReg (regOf f.x) (regOf f.y)⟩
     , ⟨0x8007, 0xF00F, fun f => .subnReg (regOf f.x) (regOf f.y)⟩
     , ⟨0x800E, 0xF00F, fun f => .shlReg (regOf f.x) (regOf f.y)⟩
     , ⟨0x9000, 0xF00F, fun f => .sneReg (regOf f.x) (regOf f.y)⟩
     , ⟨0xA000, 0xF000, fun f => .ldI f.nnn⟩
     , ⟨0xB000, 0xF000, fun f => .jpV0 f.nnn⟩
     , ⟨0xC000, 0xF000, fun f => .rnd (regOf f.x) f.nn⟩
     , ⟨0xD000, 0xF000, fun f => .drw (regOf f.x) (regOf f.y) f.n⟩
     , ⟨0xE09E, 0xF0FF, fun f => .skp (regOf f.x)⟩ ]
  ++ [ ⟨0xE0A1, 0xF0FF, fun f => .sknp (regOf f.x)⟩
     , ⟨0xF007, 0xF0FF, fun f => .ldVxDt (regOf f.x)⟩
     , ⟨0xF00A, 0xF0FF, fun f => .ldVxK (regOf f.x)⟩
     , ⟨0xF015, 0xF0FF, fun f => .ldDtVx (regOf f.x)⟩
     , ⟨0xF018, 0xF0FF, fun f => .ldStVx (regOf f.x)⟩
     , ⟨0xF01E, 0xF0FF, fun f => .addI (regOf f.x)⟩
     , ⟨0xF029, 0xF0FF, fun f => .ldF (regOf f.x)⟩
     , ⟨0xF033, 0xF0FF, fun f => .ldB (regOf f.x)⟩
     , ⟨0xF055, 0xF0FF, fun f => .storeRegs (regOf f.x)⟩
     , ⟨0xF065, 0xF0FF, fun f => .loadRegs (regOf f.x)⟩ ]

/-- Decode(w) (R58): the instruction of the matching row, or `Unknown(w)`. -/
def decodeWord (w : Word) : Except DecodeError Instr :=
  match encodingTable.find? (fun r => rowMatches r w) with
  | some r => .ok (r.build (fieldsOf w))
  | none   => .error (.unknownOpcode w)

/-- The big-endian word of two bytes: the byte at the lower address is bits 15:8 (R40, R53). -/
def wordOfBytes (hi lo : Byte) : Word := hi ++ lo

/-- The two bytes of a word as memory holds them, high byte first (R40, R53). -/
def bytesOfWord (w : Word) : List Byte := [w.extractLsb' 8 8, w.extractLsb' 0 8]

/-- The instruction at the front of any byte string, with the bytes after it. -/
def decodeBytes : List Byte → Except DecodeError (Instr × List Byte)
  | hi :: lo :: rest =>
    match decodeWord (wordOfBytes hi lo) with
    | .ok i    => .ok (i, rest)
    | .error e => .error e
  | _ => .error .truncated

/-- The bytes, as memory holds them, of an instruction whose table bits are `w`: bits at and above `nbits` are 0, and
every instruction is one word (R53). -/
def tableBytes (nbits w : Nat) : List Byte := bytesOfWord (BitVec.ofNat 16 (w % 2 ^ nbits))

/-- What the decoder reads from an instruction whose table bits are `w` (the host's question). -/
def decodeTableWord (nbits w : Nat) : Option Instr :=
  match decodeBytes (tableBytes nbits w) with
  | .ok (i, _) => some i
  | .error _   => none

/-- Format A: `ffff aaaa aaaa aaaa` (R55). -/
def encodeA (family : Nibble) (nnn : Addr) : Word := family ++ nnn

/-- Format XNN: `ffff xxxx kkkk kkkk` (R55). -/
def encodeXNN (family : Nibble) (x : Reg) (nn : Byte) : Word := family ++ regField x ++ nn

/-- Formats XY and XYN: `ffff xxxx yyyy cccc`, the low nibble fixed or the row count (R55). -/
def encodeXYN (family : Nibble) (x y : Reg) (low : Nibble) : Word := family ++ regField x ++ regField y ++ low

/-- Format X: `ffff xxxx cccc cccc` (R55). -/
def encodeX (family : Nibble) (x : Reg) (low : Byte) : Word := family ++ regField x ++ low

/-- The word of an instruction (R55, R57). -/
def encode : Instr → Word
  | .cls => 0x00E0
  | .ret => 0x00EE
  | .jp nnn => encodeA 0x1 nnn
  | .call nnn => encodeA 0x2 nnn
  | .seByte x nn => encodeXNN 0x3 x nn
  | .sneByte x nn => encodeXNN 0x4 x nn
  | .seReg x y => encodeXYN 0x5 x y 0x0
  | .ldByte x nn => encodeXNN 0x6 x nn
  | .addByte x nn => encodeXNN 0x7 x nn
  | .ldReg x y => encodeXYN 0x8 x y 0x0
  | .orReg x y => encodeXYN 0x8 x y 0x1
  | .andReg x y => encodeXYN 0x8 x y 0x2
  | .xorReg x y => encodeXYN 0x8 x y 0x3
  | .addReg x y => encodeXYN 0x8 x y 0x4
  | .subReg x y => encodeXYN 0x8 x y 0x5
  | .shrReg x y => encodeXYN 0x8 x y 0x6
  | .subnReg x y => encodeXYN 0x8 x y 0x7
  | .shlReg x y => encodeXYN 0x8 x y 0xE
  | .sneReg x y => encodeXYN 0x9 x y 0x0
  | .ldI nnn => encodeA 0xA nnn
  | .jpV0 nnn => encodeA 0xB nnn
  | .rnd x nn => encodeXNN 0xC x nn
  | .drw x y n => encodeXYN 0xD x y n
  | .skp x => encodeX 0xE x 0x9E
  | .sknp x => encodeX 0xE x 0xA1
  | .ldVxDt x => encodeX 0xF x 0x07
  | .ldVxK x => encodeX 0xF x 0x0A
  | .ldDtVx x => encodeX 0xF x 0x15
  | .ldStVx x => encodeX 0xF x 0x18
  | .addI x => encodeX 0xF x 0x1E
  | .ldF x => encodeX 0xF x 0x29
  | .ldB x => encodeX 0xF x 0x33
  | .storeRegs x => encodeX 0xF x 0x55
  | .loadRegs x => encodeX 0xF x 0x65

end Sys2Proof
end

