-- ==== Sys2Proof/Machine/State.lean ====
section
/-! DEFINITION. The core's state (rules R17 to R35, R38), the transactions of its interface (R36) and the state after
construction (R35), as plain data. -/

namespace Sys2Proof.Machine

/-- Memory `M` (R38): the bytes that differ from their value at construction, by rising address. `Memory.read`
(Machine/Ops.lean) says what an address that is not listed reads as. -/
abbrev Memory := List Host.Cell

/-- The framebuffer `FB` (R28): row y, whose bit x is the cell at column x. -/
abbrev FrameBuffer := Vector (BitVec 64) 32

/-- `STATUS` (R31). -/
inductive Status where
  | running
  | halted
  | stopped
  deriving DecidableEq, Repr

/-- The cause codes (R121), in the order of their numbers 0..7. -/
inductive Cause where
  | noFault
  | unknownOpcode
  | stackOverflow
  | stackUnderflow
  | fetchBounds
  | dataBounds
  | keyIndex
  | romTooLarge
  deriving DecidableEq, Repr

/-- The fault record `FAULT` (R32): `addr` is a natural number, since the addresses of an access are (R41). -/
structure FaultRecord where
  cause : Cause
  pc    : Word
  word  : Word
  addr  : Nat
  deriving DecidableEq, Repr

/-- The error report `ERR` of the last cycle (R33). -/
inductive ErrReport where
  | noReport
  | unknownOpcode (pc word : Word)
  deriving DecidableEq, Repr

/-- The transactions the host may apply to a core (R36), Construct apart (Machine/Transactions.lean). -/
inductive Transaction where
  /-- `Cycle(r)` (R63). -/
  | cycle (r : Byte)
  /-- `Tick` (R129). -/
  | tick
  /-- `Step(doCycle, doTick, r)` (R67). -/
  | step (doCycle doTick : Bool) (r : Byte)
  /-- `KeyWrite(k, down)` (R133). -/
  | keyWrite (k : Fin 16) (down : Bool)
  /-- `AudioAck` (R134). -/
  | audioAck
  /-- `Shutdown` (R139). -/
  | shutdown
  /-- A host read (R135). -/
  | read
  deriving DecidableEq, Repr

/-- The state. The first fifteen fields are the tuple of R17, the last four the model's own: the inputs that R17 says are
no state (the parameters, the random byte of a cycle, the order of transactions) have no other way into a step. -/
structure State where
  /-- `M` (R38). -/
  mem      : Memory
  /-- `V[0]` .. `V[15]` (R18). -/
  v        : Vector Byte 16
  /-- `I` (R21). -/
  i        : Word
  /-- `PC` (R22). -/
  pc       : Word
  /-- `STACK[0]` .. `STACK[15]` (R23). -/
  stack    : Vector Word 16
  /-- `SP`, 0..16 (R24). -/
  sp       : Fin 17
  /-- `DT` (R25). -/
  dt       : Byte
  /-- `ST` (R26). -/
  st       : Byte
  /-- `KEY[0]` .. `KEY[15]`, true = down (R27). -/
  key      : Vector Bool 16
  /-- `FB` (R28). -/
  fb       : FrameBuffer
  /-- `REDRAW` (R29). -/
  redraw   : Bool
  /-- `AUDIO_DUE` (R30). -/
  audioDue : Bool
  /-- `STATUS` (R31). -/
  status   : Status
  /-- `FAULT` (R32). -/
  fault    : FaultRecord
  /-- `ERR` (R33). -/
  err      : ErrReport
  /-- The model's own (log entry 2): the parameters the core was constructed with (R8). -/
  params   : Params
  /-- The model's own (log entry 1): the random byte `r` of the Cycle in progress (R36, R102). -/
  rnd      : Byte
  /-- The model's own (log entry 1): how many free random bytes have been drawn. -/
  drawn    : Nat
  /-- The model's own (log entry 3): the transactions the host has still to apply, the next one first (R7). -/
  inbox    : List Transaction
  deriving DecidableEq, Repr

/-- The core right after Construct with an empty ROM, the default FONT and the default parameters (R35, R141). -/
def State.reset : State where
  mem      := []
  v        := Vector.replicate 16 0
  i        := 0
  pc       := Config.resetPc
  stack    := Vector.replicate 16 0
  sp       := 0
  dt       := 0
  st       := 0
  key      := Vector.replicate 16 false
  fb       := Vector.replicate 32 0
  redraw   := false
  audioDue := false
  status   := .running
  fault    := { cause := .noFault, pc := 0, word := 0, addr := 0 }
  err      := .noReport
  params   := Config.defaultParams
  rnd      := 0
  drawn    := 0
  inbox    := []

/-- The reasons a step ends in a fault of the model: none. Nobody raises one, and that is safe: every fault of the
spec (R121) halts the core with a fault record (R122), which is a next state whose `status` is `halted`, and no
instruction and no transaction of the spec is left without an effect. -/
inductive Fault where
  deriving DecidableEq, Repr

/-- The reasons a step is refused. -/
inductive Refusal where
  /-- Raised by an arm of `exec` whose instruction has no meaning yet; safe (the model stops where the hardware goes on).
  No arm raises it: every instruction of the opcode map has its meaning. -/
  | notModelled (mnemonic : String)
  deriving DecidableEq, Repr

/-- What an instruction or a transaction answers. -/
abbrev Result := Host.Outcome State Fault Refusal

end Sys2Proof.Machine
end

