-- ==== Sys2Proof/Machine/Ops.lean ====
section
/-! DEFINITION. The named operations over memory, registers, the stack, the framebuffer and the keypad, and the raising of
a fault (rule R122), which every meaning shares. -/

namespace Sys2Proof.Machine

/-- The default `FONT`: 80 bytes, five a digit, digits 0 to F (R143, decision D4). -/
def defaultFont : List Byte :=
  [ 0xF0, 0x90, 0x90, 0x90, 0xF0,  0x20, 0x60, 0x20, 0x20, 0x70,
    0xF0, 0x10, 0xF0, 0x80, 0xF0,  0xF0, 0x10, 0xF0, 0x10, 0xF0 ]
  ++ [ 0x90, 0x90, 0xF0, 0x10, 0x10,  0xF0, 0x80, 0xF0, 0x10, 0xF0,
       0xF0, 0x80, 0xF0, 0x90, 0xF0,  0xF0, 0x10, 0x20, 0x40, 0x40 ]
  ++ [ 0xF0, 0x90, 0xF0, 0x90, 0xF0,  0xF0, 0x90, 0xF0, 0x10, 0xF0,
       0xF0, 0x90, 0xF0, 0x90, 0x90,  0xE0, 0x90, 0xE0, 0x90, 0xE0 ]
  ++ [ 0xF0, 0x80, 0x80, 0x80, 0xF0,  0xE0, 0x90, 0x90, 0x90, 0xE0,
       0xF0, 0x80, 0xF0, 0x80, 0xF0,  0xF0, 0x80, 0xF0, 0x80, 0x80 ]

/-- What an address that memory does not list reads as: the default font at `FONT_BASE`, else 0 (R35, R46). -/
def resetByte (a : Nat) : Byte :=
  if Config.fontBase ≤ a then defaultFont.getD (a - Config.fontBase) 0 else 0

/-- The byte at an address (R12, R49). -/
def Memory.read : Memory → Nat → Byte
  | [], a => resetByte a
  | (k, c) :: m, a => if a = k then c else Memory.read m a

/-- The memory with the byte `b` at the address `a` (R12), in canonical form again. -/
def Memory.write : Memory → Nat → Byte → Memory
  | [], a, b => if b = resetByte a then [] else [(a, b)]
  | (k, c) :: m, a, b =>
    if a < k then
      if b = resetByte a then (k, c) :: m else (a, b) :: (k, c) :: m
    else if a = k then
      if b = resetByte a then m else (a, b) :: m
    else (k, c) :: Memory.write m a b

/-- The canonical form from the address `lo` up: addresses strictly rising and at most 0xFFF, and no entry equal to what
an unlisted address reads as. -/
def Memory.wfFrom : Nat → Memory → Bool
  | _, [] => true
  | lo, (k, c) :: m => decide (lo ≤ k) && decide (k ≤ Config.memTop) && c != resetByte k && Memory.wfFrom (k + 1) m

/-- The canonical form of memory. -/
def Memory.wf (m : Memory) : Bool := Memory.wfFrom 0 m

/-- The bytes at `base`, `base + 1`, … (`count` of them), lowest address first (R43). -/
def Memory.readBytes (m : Memory) : Nat → Nat → List Byte
  | _, 0 => []
  | base, count + 1 => m.read base :: Memory.readBytes m (base + 1) count

/-- The memory with the bytes stored at `base`, `base + 1`, …, lowest address first (R43). -/
def Memory.writeBytes : Memory → Nat → List Byte → Memory
  | m, _, [] => m
  | m, base, b :: bs => Memory.writeBytes (m.write base b) (base + 1) bs

/-- The big-endian word at an address: MemRead(addr, 2) (R12, R40). -/
def Memory.readWord (m : Memory) (a : Nat) : Word := wordOfBytes (m.read a) (m.read (a + 1))

/-- The check an instruction makes on the `count` addresses from I up before its first write (R41): the lowest one above
0xFFF, if there is one. The addresses are natural numbers and never wrap. -/
def dataFault? (base : Word) (count : Nat) : Option Nat :=
  if 0 < count ∧ Config.memTop + 1 < base.toNat + count then some (max base.toNat (Config.memTop + 1)) else none

/-- Register VX (R18). -/
def State.getV (s : State) (x : Reg) : Byte := s.v[x]

/-- `V[x] <- b` (R18). -/
def State.setV (s : State) (x : Reg) (b : Byte) : State := { s with v := s.v.set x.val b x.isLt }

/-- `PC <- target` (R64). -/
def State.goto (s : State) (target : Word) : State := { s with pc := target }

/-- `next` of R14: `PC <- u16(PC + 2)`. -/
def State.advance (s : State) : State := s.goto (s.pc + 2)

/-- `skip` of R14: `PC <- u16(PC + 4)`. -/
def State.skip (s : State) : State := s.goto (s.pc + 4)

/-- `I <- a` (R21). -/
def State.setI (s : State) (a : Word) : State := { s with i := a }

/-- `DT <- b` (R25). -/
def State.setDt (s : State) (b : Byte) : State := { s with dt := b }

/-- `ST <- b` (R26). -/
def State.setSt (s : State) (b : Byte) : State := { s with st := b }

/-- `KEY[k] <- down` (R27). -/
def State.setKey (s : State) (k : Fin 16) (down : Bool) : State := { s with key := s.key.set k.val down k.isLt }

/-- The memory replaced. -/
def State.setMem (s : State) (m : Memory) : State := { s with mem := m }

/-- The framebuffer replaced. -/
def State.setFb (s : State) (fb : FrameBuffer) : State := { s with fb := fb }

/-- `STACK[SP] <- a; SP <- SP + 1` (R24), for an SP below 16. -/
def State.push (s : State) (a : Word) (h : s.sp.val < 16) : State :=
  { s with stack := s.stack.set s.sp.val a h, sp := ⟨s.sp.val + 1, by omega⟩ }

/-- `SP <- SP - 1` (R24), for an SP above 0; the entry keeps its value. -/
def State.pop (s : State) (h : 0 < s.sp.val) : State :=
  { s with sp := ⟨s.sp.val - 1, by omega⟩ }

/-- The entry a pop reads: `STACK[SP - 1]` with the SP before it (R24, R78). -/
def State.top (s : State) (h : 0 < s.sp.val) : Word := s.stack[s.sp.val - 1]

/-- The cell `FB[x, y]`, false off the 64 x 32 grid (R28). -/
def FrameBuffer.cell (fb : FrameBuffer) (x y : Nat) : Bool :=
  if h : y < 32 then decide (x < 64) && fb[y].getLsbD x else false

/-- `FB[x, y] <- FB[x, y] XOR 1`, for a cell of the grid (R71). -/
def FrameBuffer.flip (fb : FrameBuffer) (x y : Nat) (h : y < 32) : FrameBuffer :=
  fb.set y (fb[y] ^^^ (1#64 <<< x)) h

/-- The empty framebuffer (R35, R70). -/
def FrameBuffer.clear : FrameBuffer := Vector.replicate 32 0

/-- `raise F(addr)` (R122), in place of every write of the cycle: the core halts with a fault record that holds the PC of
the instruction and its word `w`, and nothing else changes. This is taking an exception on this core; there is no
vector and no return (R120, R125). -/
def State.raise (s : State) (c : Cause) (w : Word) (addr : Nat) : State :=
  { s with status := .halted, fault := { cause := c, pc := s.pc, word := w, addr := addr } }

/-- The number of a cause (R121). -/
def Cause.code : Cause → Nat
  | .noFault        => 0
  | .unknownOpcode  => 1
  | .stackOverflow  => 2
  | .stackUnderflow => 3
  | .fetchBounds    => 4
  | .dataBounds     => 5
  | .keyIndex       => 6
  | .romTooLarge    => 7

end Sys2Proof.Machine
end

