-- ==== Sys2Proof/Machine/Operands.lean ====
section
/-! DEFINITION. The operand forms (rule R56) and the values that are computed from operands: zero-extended addresses, the
keypad index (R111), glyph addresses (R106), decimal digits (R107), register blocks (R108, R109) and sprites (R68). -/

namespace Sys2Proof.Machine

/-- `zext_16(nnn)` (R56). -/
def addrOperand (nnn : Addr) : Word := nnn.setWidth 16

/-- `zext_16(V[x])` (R10). -/
def byteOperand (b : Byte) : Word := b.setWidth 16

/-- The key a register value names, if it names one: only 0..15 do, and the value is not masked (R111). -/
def keyOperand? (b : Byte) : Option (Fin 16) := if h : b.toNat < 16 then some ⟨b.toNat, h⟩ else none

/-- The address FX29 puts in I: `zext_16(V[x]) * 5`, with no masking of V[x] (R106). -/
def glyphAddress (b : Byte) : Word := byteOperand b * 5

/-- The three decimal digits of a byte, hundreds first, each a whole byte (R107). -/
def decimalDigits (b : Byte) : List Byte := [b / 100, (b / 10) % 10, b % 10]

/-- The registers V0..VX as a block of bytes (R108). -/
def regBlock (v : Vector Byte 16) (x : Reg) : List Byte := v.toList.take (x.val + 1)

/-- The register file with V0..VX loaded from `base`, `base + 1`, … (R109). -/
def loadBlock (v : Vector Byte 16) (m : Memory) (base : Nat) (x : Reg) : Vector Byte 16 :=
  Vector.ofFn fun k => if k ≤ x then m.read (base + k.val) else v[k]

/-- The least key that is down, if one is (R116). -/
def lowestKeyDown (key : Vector Bool 16) : Option (Fin 16) := (List.finRange 16).find? (fun k => key[k])

/-- Sprite bit `c` of a row: bit 7 is the leftmost pixel, column offset 0 (R68). -/
def spriteBit (row : Byte) (c : Nat) : Bool := row.getLsbD (7 - c)

/-- What a sprite is drawn on: the framebuffer and the collision bit (R71). -/
structure Canvas where
  fb      : FrameBuffer
  collide : Bool
  deriving DecidableEq, Repr

/-- One sprite pixel on the cell (cx, cy): a 0 bit and a cell off the grid are left out (R69, R72). -/
def plotPixel (cx cy : Nat) (bit : Bool) (cv : Canvas) : Canvas :=
  if h : bit = true ∧ cx < 64 ∧ cy < 32 then
    { fb := cv.fb.flip cx cy h.2.2, collide := cv.collide || cv.fb.cell cx cy }
  else cv

/-- The pixels `c`, `c + 1`, … (`left` of them) of one sprite row whose column 0 is at px (R71). -/
def plotRow (px cy : Nat) (row : Byte) : Nat → Nat → Canvas → Canvas
  | _, 0, cv => cv
  | c, left + 1, cv => plotRow px cy row (c + 1) left (plotPixel (px + c) cy (spriteBit row c) cv)

/-- The rows of a sprite, the first at the row `py` of the grid, eight pixels each (R68, R71). -/
def plotSprite (px : Nat) : Nat → List Byte → Canvas → Canvas
  | _, [], cv => cv
  | cy, row :: rows, cv => plotSprite px (cy + 1) rows (plotRow px cy row 0 8 cv)

end Sys2Proof.Machine
end

