-- ==== Sys2Proof/Machine/Flags.lean ====
section
/-! DEFINITION. The flag computations of the 8XYn family and of DXYN, and the order in which a result and its flag are
written (rules R19, R88, R95 to R99): the result to VX first, the flag to VF second. -/

namespace Sys2Proof.Machine

/-- A flag as the byte VF receives: 1 or 0. -/
def flagByte (b : Bool) : Byte := if b then 1 else 0

/-- The carry of a + b: the sum is above 255 (R95). -/
def addCarry (a b : Byte) : Bool := decide (a.toNat + b.toNat > 255)

/-- Not borrow of a - b: false exactly when b > a (R96, R98). -/
def notBorrow (a b : Byte) : Bool := !decide (b.toNat > a.toNat)

/-- The bit a right shift by one shifts out (R97). -/
def rightBitOut (b : Byte) : Bool := b.getLsbD 0

/-- The bit a left shift by one shifts out (R99). -/
def leftBitOut (b : Byte) : Bool := b.getLsbD 7

/-- `V[x] <- res; V[0xF] <- flag` in that order, so that VF ends with the flag when x is 0xF (R88). -/
def State.setResultFlag (s : State) (x : Reg) (res : Byte) (flag : Bool) : State :=
  (s.setV x res).setV Reg.vf (flagByte flag)

end Sys2Proof.Machine
end

