-- ==== Sys2Proof/Machine/ControlFlow.lean ====
section
/-! DEFINITION. The control-flow instructions 00EE, 1NNN, 2NNN, 3XNN, 4XNN, 5XY0, 9XY0 and BNNN (rules R77 to R87). -/

namespace Sys2Proof.Machine

/-- A conditional skip (R77). -/
def State.skipIf (s : State) (c : Bool) : State := if c then s.skip else s.advance

/-- 00EE RET (R78): PC is the popped entry plus 2; an empty stack is a fault. -/
def execRet (s : State) : Result :=
  if h : 0 < s.sp.val then .next ((s.pop h).goto (s.top h + 2))
  else .next (s.raise .stackUnderflow (encode .ret) 0)

/-- 1NNN JP (R79). -/
def execJp (nnn : Addr) (s : State) : Result := .next (s.goto (addrOperand nnn))

/-- 2NNN CALL (R80): the address of the call itself is pushed; a full stack is a fault. -/
def execCall (nnn : Addr) (s : State) : Result :=
  if h : s.sp.val < 16 then .next ((s.push s.pc h).goto (addrOperand nnn))
  else .next (s.raise .stackOverflow (encode (.call nnn)) 0)

/-- 3XNN SE (R81). -/
def execSeByte (x : Reg) (nn : Byte) (s : State) : Result := .next (s.skipIf (s.getV x == nn))

/-- 4XNN SNE (R82). -/
def execSneByte (x : Reg) (nn : Byte) (s : State) : Result := .next (s.skipIf (s.getV x != nn))

/-- 5XY0 SE (R83). -/
def execSeReg (x y : Reg) (s : State) : Result := .next (s.skipIf (s.getV x == s.getV y))

/-- 9XY0 SNE (R84). -/
def execSneReg (x y : Reg) (s : State) : Result := .next (s.skipIf (s.getV x != s.getV y))

/-- BNNN JP V0 (R85). -/
def execJpV0 (nnn : Addr) (s : State) : Result := .next (s.goto (addrOperand nnn + byteOperand (s.getV 0)))

end Sys2Proof.Machine
end

