-- ==== Sys2Proof/Machine/Display.lean ====
section
/-! DEFINITION. The display instructions 00E0 and DXYN (rules R68 to R76). The cycle sets REDRAW after them (R66). -/

namespace Sys2Proof.Machine

/-- 00E0 CLS (R70). -/
def execCls (s : State) : Result := .next (s.setFb FrameBuffer.clear).advance

/-- DXYN DRW (R71 to R75): both coordinates and all n rows are read, and all addresses checked, before any write; the
start coordinates are not reduced, and VF is written last. -/
def execDrw (x y : Reg) (n : Nibble) (s : State) : Result :=
  match dataFault? s.i n.toNat with
  | some a => .next (s.raise .dataBounds (encode (.drw x y n)) a)
  | none =>
    let cv := plotSprite (s.getV x).toNat (s.getV y).toNat (s.mem.readBytes s.i.toNat n.toNat)
      { fb := s.fb, collide := false }
    .next ((s.setFb cv.fb).setV Reg.vf (flagByte cv.collide)).advance

end Sys2Proof.Machine
end

