-- ==== Sys2Proof/Machine/IndexMemory.lean ====
section
/-! DEFINITION. The index-register and memory instructions ANNN, FX1E, FX29, FX33, FX55 and FX65 (rules R104 to R110).
All addresses are checked before the first write (R41); none writes a flag, and only the first three write I. -/

namespace Sys2Proof.Machine

/-- `I <- a; PC <- u16(PC + 2)`. -/
def writeI (a : Word) (s : State) : Result := .next (s.setI a).advance

/-- The bytes stored at I, I + 1, …, or DataBounds with nothing stored (R41); `w` is the instruction's word. -/
def storeAtI (w : Word) (bs : List Byte) (s : State) : Result :=
  match dataFault? s.i bs.length with
  | some a => .next (s.raise .dataBounds w a)
  | none   => .next (s.setMem (s.mem.writeBytes s.i.toNat bs)).advance

/-- ANNN LD I (R104). -/
def execLdI (nnn : Addr) (s : State) : Result := writeI (addrOperand nnn) s

/-- FX1E ADD I (R105): modulo 65536, no flag. -/
def execAddI (x : Reg) (s : State) : Result := writeI (s.i + byteOperand (s.getV x)) s

/-- FX29 LD F (R106). -/
def execLdF (x : Reg) (s : State) : Result := writeI (glyphAddress (s.getV x)) s

/-- FX33 LD B (R107). -/
def execLdB (x : Reg) (s : State) : Result := storeAtI (encode (.ldB x)) (decimalDigits (s.getV x)) s

/-- FX55 LD [I] (R108). -/
def execStoreRegs (x : Reg) (s : State) : Result := storeAtI (encode (.storeRegs x)) (regBlock s.v x) s

/-- FX65 LD VX, [I] (R109). -/
def execLoadRegs (x : Reg) (s : State) : Result :=
  match dataFault? s.i (x.val + 1) with
  | some a => .next (s.raise .dataBounds (encode (.loadRegs x)) a)
  | none   => .next (State.advance { s with v := loadBlock s.v s.mem s.i.toNat x })

end Sys2Proof.Machine
end

