-- ==== Sys2Proof/Machine/KeypadTimers.lean ====
section
/-! DEFINITION. The keypad and timer instructions EX9E, EXA1, FX07, FX0A, FX15 and FX18 (rules R111 to R119). -/

namespace Sys2Proof.Machine

/-- The key after EX9E or EXA1 has read it: cleared when the parameter says so, skip or not (R112). -/
def State.afterKeyRead (s : State) (k : Fin 16) : State :=
  if s.params.keyClearOnRead then s.setKey k false else s

/-- A skip on the level of the key that `b` names, wanted down or up; no such key is a KeyIndex fault (R111). -/
def skipOnKey (w : Word) (b : Byte) (wanted : Bool) (s : State) : Result :=
  match keyOperand? b with
  | none   => .next (s.raise .keyIndex w b.toNat)
  | some k => .next ((s.afterKeyRead k).skipIf (s.key[k] == wanted))

/-- EX9E SKP (R113). -/
def execSkp (x : Reg) (s : State) : Result := skipOnKey (encode (.skp x)) (s.getV x) true s

/-- EXA1 SKNP (R114). -/
def execSknp (x : Reg) (s : State) : Result := skipOnKey (encode (.sknp x)) (s.getV x) false s

/-- FX07 LD VX, DT (R115). -/
def execLdVxDt (x : Reg) (s : State) : Result := .next (s.setV x s.dt).advance

/-- FX0A LD VX, K (R116): with no key down nothing is written, and PC stays for the next cycle to fetch again. -/
def execLdVxK (x : Reg) (s : State) : Result :=
  match lowestKeyDown s.key with
  | some k => .next (s.setV x (BitVec.ofNat 8 k.val)).advance
  | none   => .next s

/-- FX15 LD DT, VX (R117). -/
def execLdDtVx (x : Reg) (s : State) : Result := .next (s.setDt (s.getV x)).advance

/-- FX18 LD ST, VX (R118): it never raises the audio-due signal. -/
def execLdStVx (x : Reg) (s : State) : Result := .next (s.setSt (s.getV x)).advance

end Sys2Proof.Machine
end

