-- ==== Sys2Proof/Machine/RegisterAlu.lean ====
section
/-! DEFINITION. The register and ALU instructions 6XNN, 7XNN, 8XY0 to 8XYE and CXNN (rules R88 to R103). Both operands
are read before any write; arithmetic on bytes wraps modulo 256 (R101). -/

namespace Sys2Proof.Machine

/-- `V[x] <- b; PC <- u16(PC + 2)`, with no flag. -/
def writeReg (x : Reg) (b : Byte) (s : State) : Result := .next (s.setV x b).advance

/-- `V[x] <- res; V[0xF] <- flag; PC <- u16(PC + 2)` (R88). -/
def writeRegFlag (x : Reg) (res : Byte) (flag : Bool) (s : State) : Result :=
  .next (s.setResultFlag x res flag).advance

/-- 6XNN LD (R89). -/
def execLdByte (x : Reg) (nn : Byte) (s : State) : Result := writeReg x nn s

/-- 7XNN ADD, no flag (R90). -/
def execAddByte (x : Reg) (nn : Byte) (s : State) : Result := writeReg x (s.getV x + nn) s

/-- 8XY0 LD (R91). -/
def execLdReg (x y : Reg) (s : State) : Result := writeReg x (s.getV y) s

/-- 8XY1 OR (R92). -/
def execOrReg (x y : Reg) (s : State) : Result := writeReg x (s.getV x ||| s.getV y) s

/-- 8XY2 AND (R93). -/
def execAndReg (x y : Reg) (s : State) : Result := writeReg x (s.getV x &&& s.getV y) s

/-- 8XY3 XOR (R94). -/
def execXorReg (x y : Reg) (s : State) : Result := writeReg x (s.getV x ^^^ s.getV y) s

/-- 8XY4 ADD (R95). -/
def execAddReg (x y : Reg) (s : State) : Result :=
  writeRegFlag x (s.getV x + s.getV y) (addCarry (s.getV x) (s.getV y)) s

/-- 8XY5 SUB (R96). -/
def execSubReg (x y : Reg) (s : State) : Result :=
  writeRegFlag x (s.getV x - s.getV y) (notBorrow (s.getV x) (s.getV y)) s

/-- 8XY6 SHR (R97): the source is VY. -/
def execShrReg (x y : Reg) (s : State) : Result :=
  writeRegFlag x (s.getV y >>> 1) (rightBitOut (s.getV y)) s

/-- 8XY7 SUBN (R98). -/
def execSubnReg (x y : Reg) (s : State) : Result :=
  writeRegFlag x (s.getV y - s.getV x) (notBorrow (s.getV y) (s.getV x)) s

/-- 8XYE SHL (R99): the source is VY. -/
def execShlReg (x y : Reg) (s : State) : Result :=
  writeRegFlag x (s.getV y <<< 1) (leftBitOut (s.getV y)) s

/-- CXNN RND (R100): `rnd` holds the random byte of the cycle (R102). -/
def execRnd (x : Reg) (nn : Byte) (s : State) : Result := writeReg x (s.rnd &&& nn) s

end Sys2Proof.Machine
end

