-- ==== Sys2Proof/Machine/Cycle.lean ====
section
/-! DEFINITION. The execution cycle (rules R60, R63 to R66): fetch, decode, execute, then REDRAW and ERR. -/

namespace Sys2Proof.Machine

/-- The fetch (R42): the big-endian word at PC, or the lowest address of it that is above 0xFFF. -/
def fetch (s : State) : Except Nat Word :=
  if s.pc.toNat + 1 ≤ Config.memTop then .ok (s.mem.readWord s.pc.toNat)
  else .error (max s.pc.toNat (Config.memTop + 1))

/-- Whether REDRAW is true after the instruction: clear-screen or draw-sprite (R66). -/
def isDrawing : Instr → Bool
  | .cls | .drw _ _ _ => true
  | .ret | .jp _ | .call _ | .seByte _ _ | .sneByte _ _ | .seReg _ _ | .ldByte _ _ | .addByte _ _
  | .ldReg _ _ | .orReg _ _ | .andReg _ _ | .xorReg _ _ | .addReg _ _ | .subReg _ _ | .shrReg _ _
  | .subnReg _ _ | .shlReg _ _ | .sneReg _ _ | .ldI _ | .jpV0 _ | .rnd _ _ | .skp _ | .sknp _
  | .ldVxDt _ | .ldVxK _ | .ldDtVx _ | .ldStVx _ | .addI _ | .ldF _ | .ldB _ | .storeRegs _
  | .loadRegs _ => false

/-- The end of a cycle whose instruction did not fault: REDRAW and ERR are written (R63, R66). A fault discards these
writes too. -/
def complete (i : Instr) (s : State) : State :=
  match s.status with
  | .running => { s with redraw := isDrawing i, err := .noReport }
  | .halted | .stopped => s

/-- The random byte of the cycle in progress (R102). -/
def State.setRnd (s : State) (r : Byte) : State := { s with rnd := r }

/-- An unknown word (R60): reported in ERR and passed over, or a fault, as the parameter says. -/
def unknownWord (w : Word) (s : State) : State :=
  match s.params.unknownPolicy with
  | .halt        => s.raise .unknownOpcode w 0
  | .continueRun => { s with err := .unknownOpcode s.pc w, redraw := false, pc := s.pc + 2 }

/-- A function of the next state, where there is one. -/
def mapNext (f : State → State) : Result → Result
  | .next s    => .next (f s)
  | .fault r   => .fault r
  | .refused r => .refused r

/-- Execute(ins, r) and the end of its cycle (R63). The byte r is seen by this execution alone. -/
def runInstr (i : Instr) (r : Byte) (s : State) : Result :=
  mapNext (fun t => (complete i t).setRnd s.rnd) (exec i (s.setRnd r))

/-- Cycle(r) (R63): nothing when the core is not running; else fetch, decode, and one instruction or unknown word. -/
def cycle (r : Byte) (s : State) : Result :=
  match s.status with
  | .halted | .stopped => .next s
  | .running =>
    match fetch s with
    | .error a => .next (s.raise .fetchBounds 0 a)
    | .ok w =>
      match decodeWord w with
      | .error _ => .next (unknownWord w s)
      | .ok i    => runInstr i r s

/-- A Cycle whose random byte is the next free one (R102, log entry 1); a core that does not run draws none. -/
def freeCycle (s : State) : Result :=
  match s.status with
  | .halted | .stopped => .next s
  | .running => cycle (Config.randomByte s.drawn) { s with drawn := s.drawn + 1 }

end Sys2Proof.Machine
end

