-- ==== Sys2Proof/Machine/Transactions.lean ====
section
/-! DEFINITION. The transactions of the core's interface (rule R36): Tick (R129), Step (R67), KeyWrite (R133), AudioAck
(R134), Shutdown (R139), the host's read (R135) and Construct (R141). -/

namespace Sys2Proof.Machine

/-- A timer one tick later, never below 0 (R129). -/
def countDown (b : Byte) : Byte := if b = 0 then 0 else b - 1

/-- Tick (R129, R130): nothing when the core is not running. -/
def tick (s : State) : State :=
  match s.status with
  | .halted | .stopped => s
  | .running => { s with dt := countDown s.dt, st := countDown s.st, audioDue := s.audioDue || s.st == 1 }

/-- Step(doCycle, doTick, r) (R67): the cycle first, then the tick. -/
def stepBoth (doCycle doTick : Bool) (r : Byte) (s : State) : Result :=
  mapNext (fun t => if doTick then tick t else t) (if doCycle then cycle r s else .next s)

/-- KeyWrite(k, down) (R133), whatever STATUS is (R123). -/
def keyWrite (k : Fin 16) (down : Bool) (s : State) : State := s.setKey k down

/-- AudioAck (R134), whatever STATUS is (R123). -/
def audioAck (s : State) : State := { s with audioDue := false }

/-- Shutdown (R139): a HALTED core stays halted (R123). -/
def shutdown (s : State) : State :=
  match s.status with
  | .running => { s with status := .stopped }
  | .halted | .stopped => s

/-- What the host sees of the core (R37, R135). -/
structure HostView where
  fb       : FrameBuffer
  redraw   : Bool
  dt       : Byte
  st       : Byte
  audioDue : Bool
  status   : Status
  fault    : FaultRecord
  err      : ErrReport
  deriving DecidableEq, Repr

/-- A host read (R135): it changes nothing. -/
def hostRead (s : State) : HostView where
  fb       := s.fb
  redraw   := s.redraw
  dt       := s.dt
  st       := s.st
  audioDue := s.audioDue
  status   := s.status
  fault    := s.fault
  err      := s.err

/-- One transaction applied (R7, R36). -/
def applyTransaction (t : Transaction) (s : State) : Result :=
  match t with
  | .cycle r               => cycle r s
  | .tick                  => .next (tick s)
  | .step doCycle doTick r => stepBoth doCycle doTick r s
  | .keyWrite k down       => .next (keyWrite k down s)
  | .audioAck              => .next (audioAck s)
  | .shutdown              => .next (shutdown s)
  | .read                  => .next s

/-- The default of the parameter `FONT` (R8, R143). -/
def fontParameter : Vector Byte 80 := ⟨defaultFont.toArray, rfl⟩

/-- Why Construct builds no core (R141, R142): RomTooLarge, code 7, with the length of the ROM. -/
inductive ConstructError where
  | romTooLarge (length : Nat)
  deriving DecidableEq, Repr

/-- The cause code of a construction error (R121). -/
def ConstructError.cause : ConstructError → Cause
  | .romTooLarge _ => .romTooLarge

/-- The memory of a new core (R46, R141): zeros but for the font at FONT_BASE and the ROM at ROM_BASE. -/
def constructMemory (rom : List Byte) (font : Vector Byte 80) : Memory :=
  Memory.writeBytes (Memory.writeBytes [] Config.fontBase font.toList) Config.romBase rom

/-- Construct(rom, params) (R141, R142), the only reset. -/
def construct (rom : List Byte) (font : Vector Byte 80) (params : Params) : Except ConstructError State :=
  if romFits rom then .ok { State.reset with mem := constructMemory rom font, params := params }
  else .error (.romTooLarge rom.length)

end Sys2Proof.Machine
end

