-- ==== Sys2Proof/Machine/Step.lean ====
section
/-! DEFINITION. One step of the machine: the next transaction on the core (rules R7, R36). -/

namespace Sys2Proof.Machine

/-- One step: the host's next transaction, or, when it has named none, a Cycle with a free random byte (R7, R102, log
entries 1 and 3). -/
def step (s : State) : Host.Outcome State Fault Refusal :=
  match s.inbox with
  | t :: rest => applyTransaction t { s with inbox := rest }
  | []        => freeCycle s

/-- The state with the instruction of the table bits `w` stored where the next step fetches, and all that this fetch
takes: a running core, no transaction before the cycle, and a PC whose two bytes exist. -/
def State.withFetchWord (s : State) (nbits w : Nat) : State :=
  let pc := if s.pc.toNat + 1 ≤ Config.memTop then s.pc else Config.resetPc
  { s with mem := s.mem.writeBytes pc.toNat (tableBytes nbits w), pc := pc, status := .running, inbox := [] }

end Sys2Proof.Machine
end

