-- ==== Sys2Proof/Safety.lean ====
section
/-! DEFINITION. The terms in which claims are stated: what a step leaves unchanged, what it means to answer a next state,
what a fault leaves (R122), which parts each instruction may write (R20, R43), and the invariant of the machine. -/

namespace Sys2Proof

open Sys2Proof.Machine

/-- The pieces of the state (R17), and the model's own four. -/
inductive Part where
  | mem | v | i | pc | stack | sp | dt | st | key | fb | redraw | audioDue | status | fault | err
  | params | rnd | drawn | inbox
  deriving DecidableEq, Repr

/-- A piece of the state is the same in both states; of memory, that every address reads the same. -/
def Part.same (s t : State) : Part → Prop
  | .mem      => ∀ a, t.mem.read a = s.mem.read a
  | .v        => ∀ x, t.getV x = s.getV x
  | .i        => t.i = s.i
  | .pc       => t.pc = s.pc
  | .stack    => t.stack = s.stack
  | .sp       => t.sp = s.sp
  | .dt       => t.dt = s.dt
  | .st       => t.st = s.st
  | .key      => t.key = s.key
  | .fb       => t.fb = s.fb
  | .redraw   => t.redraw = s.redraw
  | .audioDue => t.audioDue = s.audioDue
  | .status   => t.status = s.status
  | .fault    => t.fault = s.fault
  | .err      => t.err = s.err
  | .params   => t.params = s.params
  | .rnd      => t.rnd = s.rnd
  | .drawn    => t.drawn = s.drawn
  | .inbox    => t.inbox = s.inbox

/-- Frame: every piece of the state but those listed is the same. -/
def OnlyChanges (ps : List Part) (s t : State) : Prop := ∀ p, p ∉ ps → p.same s t

/-- The result is a next state, and `P` holds of it. -/
def Answers (r : Result) (P : State → Prop) : Prop := ∃ t, r = .next t ∧ P t

/-- The state a fault leaves (R122): STATUS and FAULT written, everything else as it was. -/
def faulted (s : State) (c : Cause) (w : Word) (addr : Nat) : State :=
  { s with status := .halted, fault := { cause := c, pc := s.pc, word := w, addr := addr } }

/-- The instruction's encoding lies in the row (value, mask) of the opcode map, and decodes to the instruction (R57). -/
def EncodedAs (value mask : Word) (i : Instr) : Prop :=
  encode i &&& mask = value ∧ decodeWord (encode i) = .ok i

/-- An instruction that writes one register: PC + 2, and nothing else changes (R20). -/
def WritesReg (x : Reg) (b : Byte) (s t : State) : Prop :=
  t.getV x = b ∧ t.pc = s.pc + 2 ∧ (∀ k, k ≠ x → t.getV k = s.getV k) ∧ OnlyChanges [.v, .pc] s t

/-- An instruction that writes a result to VX and a flag to VF, the flag last: when x is 0xF the flag stays (R88). The
result is given as the natural number the byte holds. -/
def WritesRegFlag (x : Reg) (res flag : Nat) (s t : State) : Prop :=
  (t.getV Reg.vf).toNat = flag ∧ (x ≠ Reg.vf → (t.getV x).toNat = res) ∧ t.pc = s.pc + 2
  ∧ (∀ k, k ≠ x → k ≠ Reg.vf → t.getV k = s.getV k) ∧ OnlyChanges [.v, .pc] s t

/-- How many addresses from I up an instruction reads or writes (R43). -/
def dataCount : Instr → Nat
  | .drw _ _ n   => n.toNat
  | .ldB _       => 3
  | .storeRegs x => x.val + 1
  | .loadRegs x  => x.val + 1
  | .cls | .ret | .jp _ | .call _ | .seByte _ _ | .sneByte _ _ | .seReg _ _ | .ldByte _ _ | .addByte _ _
  | .ldReg _ _ | .orReg _ _ | .andReg _ _ | .xorReg _ _ | .addReg _ _ | .subReg _ _ | .shrReg _ _
  | .subnReg _ _ | .shlReg _ _ | .sneReg _ _ | .ldI _ | .jpV0 _ | .rnd _ _ | .skp _ | .sknp _
  | .ldVxDt _ | .ldVxK _ | .ldDtVx _ | .ldStVx _ | .addI _ | .ldF _ => 0

/-- The one fault kind an instruction can raise, if it can raise one (R124). -/
def faultKind : Instr → Option Cause
  | .call _ => some .stackOverflow
  | .ret    => some .stackUnderflow
  | .drw _ _ _ | .ldB _ | .storeRegs _ | .loadRegs _ => some .dataBounds
  | .skp _ | .sknp _ => some .keyIndex
  | .cls | .jp _ | .seByte _ _ | .sneByte _ _ | .seReg _ _ | .ldByte _ _ | .addByte _ _
  | .ldReg _ _ | .orReg _ _ | .andReg _ _ | .xorReg _ _ | .addReg _ _ | .subReg _ _ | .shrReg _ _
  | .subnReg _ _ | .shlReg _ _ | .sneReg _ _ | .ldI _ | .jpV0 _ | .rnd _ _
  | .ldVxDt _ | .ldVxK _ | .ldDtVx _ | .ldStVx _ | .addI _ | .ldF _ => none

/-- The pieces of state, PC apart, that an instruction writes when it does not fault (R20, R21, R23, R27, R28, R43). -/
def writesOf : Instr → List Part
  | .cls => [.fb]
  | .ret => [.sp]
  | .call _ => [.stack, .sp]
  | .drw _ _ _ => [.fb, .v]
  | .jp _ | .jpV0 _ | .seByte _ _ | .sneByte _ _ | .seReg _ _ | .sneReg _ _ => []
  | .ldByte _ _ | .addByte _ _ | .ldReg _ _ | .orReg _ _ | .andReg _ _ | .xorReg _ _ | .addReg _ _
  | .subReg _ _ | .shrReg _ _ | .subnReg _ _ | .shlReg _ _ | .rnd _ _ | .ldVxDt _ | .ldVxK _ | .loadRegs _ => [.v]
  | .ldI _ | .addI _ | .ldF _ => [.i]
  | .skp _ | .sknp _ => [.key]
  | .ldDtVx _ => [.dt]
  | .ldStVx _ => [.st]
  | .ldB _ | .storeRegs _ => [.mem]

/-- Whether the sprite of `n` rows at `base`, drawn at (px, py), has a 1 bit on the cell (cx, cy) (R68, R69): the start
coordinates are not reduced, and bit 7 of a row is its leftmost pixel. -/
def spriteOn (m : Memory) (base px py n cx cy : Nat) : Bool :=
  decide (px ≤ cx) && decide (cx < px + 8) && decide (py ≤ cy) && decide (cy < py + n)
    && (m.read (base + (cy - py))).getLsbD (7 - (cx - px))

/-- The invariant of the machine: memory is in its canonical form; the core is HALTED exactly when a fault is recorded;
the recorded fault is one a cycle can raise (R121), and UNKNOWN_OPCODE only under the halt policy (R60, R126); with no
fault the record is all zero (R35); and under the halt policy ERR never holds a report (R60). -/
abbrev CoreInvariant (s : State) : Prop :=
  s.mem.wf = true
  ∧ (s.status = .halted ↔ s.fault.cause ≠ .noFault)
  ∧ s.fault.cause ≠ .romTooLarge
  ∧ (s.fault.cause = .unknownOpcode → s.params.unknownPolicy = .halt)
  ∧ (s.fault.cause = .noFault → s.fault = { cause := .noFault, pc := 0, word := 0, addr := 0 })
  ∧ (s.params.unknownPolicy = .halt → s.err = .noReport)

end Sys2Proof
end

