-- ==== Sys2Proof/Certificates/Slice0/Obligations.lean ====
section
/-! DEFINITION. The statements about the model, from the numbered rules of the spec. `Answers r P` says that `r` is a next
state of which `P` holds; `OnlyChanges ps s t` that every piece of the state outside `ps` is the same (of memory: that
every address reads the same); `faulted s c w a` is the state a fault leaves (R122). All three are in Safety.lean. -/

open Sys2Proof Sys2Proof.Machine

/-! ## Encoding and decoding -/

/-- At least one word of each of the sixteen families (a family is a high nibble, R16, R54), the field tuple of 0xD12F and
two unknown words, read as rules R54, R57 and R59 say. -/
def Obligations.OpcodeMapWordsDecode : Prop :=
  fieldsOf 0xD12F = { family := 0xD, x := 0x1, y := 0x2, nn := 0x2F, nnn := 0x12F, n := 0xF }
  ∧ decodeWord 0x00E0 = .ok .cls ∧ decodeWord 0xD12F = .ok (.drw 1 2 15)
  ∧ decodeWord 0x00EE = .ok .ret ∧ decodeWord 0x1234 = .ok (.jp 0x234) ∧ decodeWord 0x2300 = .ok (.call 0x300)
  ∧ decodeWord 0x3312 = .ok (.seByte 3 0x12) ∧ decodeWord 0x4A05 = .ok (.sneByte 10 5)
  ∧ decodeWord 0x5120 = .ok (.seReg 1 2) ∧ decodeWord 0x9AB0 = .ok (.sneReg 10 11)
  ∧ decodeWord 0x6A05 = .ok (.ldByte 10 5) ∧ decodeWord 0x7103 = .ok (.addByte 1 3)
  ∧ decodeWord 0x8127 = .ok (.subnReg 1 2) ∧ decodeWord 0xA123 = .ok (.ldI 0x123) ∧ decodeWord 0xB300 = .ok (.jpV0 0x300)
  ∧ decodeWord 0xC30F = .ok (.rnd 3 0x0F) ∧ decodeWord 0xF355 = .ok (.storeRegs 3)
  ∧ decodeWord 0xE1A1 = .ok (.sknp 1) ∧ decodeWord 0xF20A = .ok (.ldVxK 2)
  ∧ decodeWord 0x00E1 = .error (.unknownOpcode 0x00E1) ∧ decodeWord 0x5121 = .error (.unknownOpcode 0x5121)

/-- R54: each field is the bits of the word that the rule gives it. -/
def Obligations.FieldsAreTheBitsOfTheWord : Prop :=
  ∀ w : Word,
    (fieldsOf w).family.toNat = w.toNat / 4096 ∧ (fieldsOf w).x.toNat = w.toNat / 256 % 16
    ∧ (fieldsOf w).y.toNat = w.toNat / 16 % 16 ∧ (fieldsOf w).nn.toNat = w.toNat % 256
    ∧ (fieldsOf w).nnn.toNat = w.toNat % 4096 ∧ (fieldsOf w).n.toNat = w.toNat % 16

/-- R57: "the rows are disjoint, so at most one row matches". -/
def Obligations.OpcodeRowsAreDisjoint : Prop :=
  ∀ (w : Word) (j k : Nat) (hj : j < encodingTable.length) (hk : k < encodingTable.length),
    rowMatches encodingTable[j] w = true → rowMatches encodingTable[k] w = true → j = k

/-- Decoding the word of an instruction gives the instruction back, with every operand (R55 to R58). -/
def Obligations.DecodeOfEncode : Prop :=
  ∀ i : Instr, i.wellFormed = true → decodeWord (encode i) = .ok i

/-- A word that decodes is the word of its instruction: no bit of it is dropped, and decoding is strict (R58). -/
def Obligations.EncodeOfDecode : Prop :=
  ∀ (w : Word) (i : Instr), decodeWord w = .ok i → encode i = w

/-- The bytes of an instruction, high byte first, decode to it and leave the bytes after it (R40, R53). -/
def Obligations.InstructionBytesDecode : Prop :=
  (∀ (i : Instr) (rest : List Byte), decodeBytes (bytesOfWord (encode i) ++ rest) = .ok (i, rest))
  ∧ (∀ hi lo : Byte, (wordOfBytes hi lo).toNat = hi.toNat * 256 + lo.toNat ∧ bytesOfWord (wordOfBytes hi lo) = [hi, lo])

/-- R59: the unknown words are exactly those of six spaces. -/
def Obligations.UnknownWordsAreTheSixSpaces : Prop :=
  ∀ w : Word,
    decodeWord w = .error (.unknownOpcode w) ↔
      ((w.toNat / 4096 = 0 ∧ w ≠ 0x00E0 ∧ w ≠ 0x00EE)
      ∨ (w.toNat / 4096 = 5 ∧ w.toNat % 16 ≠ 0)
      ∨ (w.toNat / 4096 = 8 ∧ w.toNat % 16 ∈ [0x8, 0x9, 0xA, 0xB, 0xC, 0xD, 0xF])
      ∨ (w.toNat / 4096 = 9 ∧ w.toNat % 16 ≠ 0)
      ∨ (w.toNat / 4096 = 0xE ∧ w.toNat % 256 ∉ [0x9E, 0xA1])
      ∨ (w.toNat / 4096 = 0xF ∧ w.toNat % 256 ∉ [0x07, 0x0A, 0x15, 0x18, 0x1E, 0x29, 0x33, 0x55, 0x65]))

/-! ## The cycle and the step -/

/-- A step of a running core with no transaction waiting runs the instruction at PC on the state with a free random
byte, then writes REDRAW and ERR unless it faulted, and puts the byte's latch back (R63, log entries 1 and 3). -/
def Obligations.StepRunsTheDecodedInstruction : Prop :=
  ∀ (s : State) (i : Instr), s.inbox = [] → s.status = .running → s.pc.toNat ≤ 0xFFE →
    decodeWord (s.mem.read s.pc.toNat ++ s.mem.read (s.pc.toNat + 1)) = .ok i →
    step s =
      mapNext (fun t => if t.status = .running then { t with redraw := isDrawing i, err := .noReport, rnd := s.rnd }
                        else { t with rnd := s.rnd })
        (exec i { s with drawn := s.drawn + 1, rnd := Config.randomByte s.drawn })

/-- A step takes the host's next transaction first (log entry 3); its `Cycle(r)` runs the instruction at PC with the byte
r (R36, R63). -/
def Obligations.StepAppliesTheNextTransaction : Prop :=
  (∀ (s : State) (x : Transaction) (rest : List Transaction), s.inbox = x :: rest →
    step s = applyTransaction x { s with inbox := rest })
  ∧ ∀ (s : State) (r : Byte) (i : Instr), s.status = .running → s.pc.toNat ≤ 0xFFE →
      decodeWord (s.mem.read s.pc.toNat ++ s.mem.read (s.pc.toNat + 1)) = .ok i →
      applyTransaction (.cycle r) s =
        mapNext (fun t => if t.status = .running then { t with redraw := isDrawing i, err := .noReport, rnd := s.rnd }
                          else { t with rnd := s.rnd })
          (exec i { s with rnd := r })

/-- R42: a PC above 0xFFE faults at the fetch, before any decode, with fault word 0; no instruction raises this fault. -/
def Obligations.FetchAboveMemoryFaults : Prop :=
  (∀ (r : Byte) (s : State), s.status = .running → 0xFFE < s.pc.toNat →
    cycle r s = .next (faulted s .fetchBounds 0 (if 0xFFF < s.pc.toNat then s.pc.toNat else s.pc.toNat + 1)))
  ∧ ∀ (i : Instr) (s : State), s.fault.cause ≠ .fetchBounds →
      Answers (exec i s) fun t => t.fault.cause ≠ .fetchBounds

/-- R60: an unknown word is reported and passed over, or faults, as UNKNOWN_OPCODE_POLICY says. -/
def Obligations.UnknownWordFollowsThePolicy : Prop :=
  ∀ (r : Byte) (s : State) (w : Word), s.status = .running → s.pc.toNat ≤ 0xFFE →
    s.mem.read s.pc.toNat ++ s.mem.read (s.pc.toNat + 1) = w → decodeWord w = .error (.unknownOpcode w) →
    (s.params.unknownPolicy = .continueRun →
      cycle r s = .next { s with err := .unknownOpcode s.pc w, redraw := false, pc := s.pc + 2 })
    ∧ (s.params.unknownPolicy = .halt → cycle r s = .next (faulted s .unknownOpcode w 0))

/-- R33, R60, R63, R66: a cycle that completes writes REDRAW, true after 00E0 and DXYN only (R66), and ERR, a report after
an unknown word only (R33, R60) and none after an instruction (R63). -/
def Obligations.CompletedCycleWritesRedrawAndErr : Prop :=
  ∀ (r : Byte) (s : State), s.status = .running →
    Answers (cycle r s) fun t => t.status = .running →
      let w := s.mem.read s.pc.toNat ++ s.mem.read (s.pc.toNat + 1)
      (t.redraw = true ↔ (decodeWord w = .ok .cls ∨ ∃ x y n, decodeWord w = .ok (.drw x y n)))
      ∧ t.err = (match decodeWord w with
                 | .ok _    => .noReport
                 | .error _ => .unknownOpcode s.pc w)

/-- R13, R122: a cycle that halts the core changes STATUS and FAULT and nothing else; the record names the PC and the
word at it (0 for FETCH_BOUNDS). -/
def Obligations.FaultsArePrecise : Prop :=
  ∀ (r : Byte) (s : State), s.status = .running →
    Answers (cycle r s) fun t => t.status ≠ .running →
      ∃ c w a, t = faulted s c w a
        ∧ ((c = .fetchBounds ∧ w = 0) ∨ w = s.mem.read s.pc.toNat ++ s.mem.read (s.pc.toNat + 1))

/-- Nothing stops the model: every instruction and every step answers a next state, in every state. It does not say that
the instruction completes: where the instruction faults, the next state is the HALTED one of R122 (log entry 7, DEDUCED: a
fault is a next state), and what a step with no transaction waiting does is log entry 3. -/
def Obligations.EveryInstructionAndStepAnswersANextState : Prop :=
  (∀ (i : Instr) (s : State), ∃ t, exec i s = .next t) ∧ ∀ s : State, ∃ t, step s = .next t

/-- R124: an instruction raises at most its one fault kind, and then changes nothing but STATUS and FAULT; else STATUS and
FAULT are unchanged. -/
def Obligations.OneFaultKindPerInstruction : Prop :=
  ∀ (i : Instr) (s : State),
    Answers (exec i s) fun t =>
      (t.status = s.status ∧ t.fault = s.fault) ∨ (∃ c a, faultKind i = some c ∧ t = faulted s c (encode i) a)

/-- R20 to R28, R43: outside a fault an instruction writes PC and the pieces of state that `writesOf` lists for it; so
only 2NNN writes STACK, only FX33 and FX55 write memory, and only 00E0 and DXYN write FB. -/
def Obligations.InstructionsWriteOnlyTheirParts : Prop :=
  ∀ (i : Instr) (s : State),
    Answers (exec i s) fun t =>
      OnlyChanges (.pc :: writesOf i) s t ∨ (∃ c a, t = faulted s c (encode i) a)

/-! ## Display -/

/-- R70: clear the framebuffer. -/
def Obligations.ClearScreen : Prop :=
  EncodedAs 0x00E0 0xFFFF .cls
  ∧ ∀ s : State, Answers (exec .cls s) fun t =>
      (∀ x y, t.fb.cell x y = false) ∧ t.pc = s.pc + 2 ∧ OnlyChanges [.fb, .pc] s t

/-- R71, R72: DXYN with its sprite bytes inside memory XORs the sprite onto the grid and puts the collision bit in VF. -/
def Obligations.DrawSprite : Prop :=
  ∀ (x y : Reg) (n : Nibble) (s : State), (n = 0 ∨ s.i.toNat + n.toNat ≤ 0x1000) →
    let on := spriteOn s.mem s.i.toNat (s.getV x).toNat (s.getV y).toNat n.toNat
    EncodedAs 0xD000 0xF000 (.drw x y n)
    ∧ Answers (exec (.drw x y n) s) fun t =>
        (∀ cx cy, cx < 64 → cy < 32 → t.fb.cell cx cy = (s.fb.cell cx cy ^^ on cx cy))
        ∧ ((∃ cx cy, cx < 64 ∧ cy < 32 ∧ on cx cy = true ∧ s.fb.cell cx cy = true) → t.getV Reg.vf = 1)
        ∧ ((¬ ∃ cx cy, cx < 64 ∧ cy < 32 ∧ on cx cy = true ∧ s.fb.cell cx cy = true) → t.getV Reg.vf = 0)
        ∧ (∀ k, k ≠ Reg.vf → t.getV k = s.getV k) ∧ t.pc = s.pc + 2 ∧ OnlyChanges [.fb, .v, .pc] s t

/-- R69, R73: a sprite that starts off the grid, or has no rows, draws nothing, and VF is written 0. -/
def Obligations.SpriteOffGridDrawsNothing : Prop :=
  ∀ (x y : Reg) (n : Nibble) (s : State), (n = 0 ∨ s.i.toNat + n.toNat ≤ 0x1000) →
    (64 ≤ (s.getV x).toNat ∨ 32 ≤ (s.getV y).toNat ∨ n = 0) →
    Answers (exec (.drw x y n) s) fun t => t.fb = s.fb ∧ t.getV Reg.vf = 0 ∧ t.pc = s.pc + 2

/-- R76: drawing the same sprite twice in a row restores the framebuffer, and the second draw collides exactly when the
first left a sprite pixel set. -/
def Obligations.DrawTwiceRestores : Prop :=
  ∀ (x y : Reg) (n : Nibble) (s : State), x ≠ Reg.vf → y ≠ Reg.vf → (n = 0 ∨ s.i.toNat + n.toNat ≤ 0x1000) →
    ∃ t u, exec (.drw x y n) s = .next t ∧ exec (.drw x y n) t = .next u ∧ u.fb = s.fb
      ∧ (u.getV Reg.vf = 1 ↔ ∃ cx cy, cx < 64 ∧ cy < 32
          ∧ spriteOn s.mem s.i.toNat (s.getV x).toNat (s.getV y).toNat n.toNat cx cy = true
          ∧ t.fb.cell cx cy = true)

/-! ## Control flow -/

/-- R78: return pops the return stack; an empty stack is a fault. -/
def Obligations.ReturnPopsTheStack : Prop :=
  EncodedAs 0x00EE 0xFFFF .ret
  ∧ (∀ (s : State) (h : 0 < s.sp.val), Answers (exec .ret s) fun t =>
      t.sp.val = s.sp.val - 1 ∧ t.pc = s.stack[s.sp.val - 1] + 2 ∧ OnlyChanges [.sp, .pc] s t)
  ∧ ∀ s : State, s.sp = 0 → exec .ret s = .next (faulted s .stackUnderflow 0x00EE 0)

/-- R80: call pushes its own address; a full stack is a fault. -/
def Obligations.CallPushesItsAddress : Prop :=
  ∀ (nnn : Addr) (s : State),
    EncodedAs 0x2000 0xF000 (.call nnn)
    ∧ (∀ h : s.sp.val < 16, Answers (exec (.call nnn) s) fun t =>
        t.stack = s.stack.set s.sp.val s.pc h ∧ t.sp.val = s.sp.val + 1 ∧ t.pc.toNat = nnn.toNat
        ∧ OnlyChanges [.stack, .sp, .pc] s t)
    ∧ (s.sp.val = 16 → exec (.call nnn) s = .next (faulted s .stackOverflow (encode (.call nnn)) 0))

/-- R86: a return from any state with the stack and SP the call left resumes at the call's address plus 2. -/
def Obligations.CallThenReturnResumes : Prop :=
  ∀ (nnn : Addr) (s : State), s.sp.val < 16 →
    Answers (exec (.call nnn) s) fun t =>
      ∀ u : State, u.stack = t.stack → u.sp = t.sp →
        Answers (exec .ret u) fun r => r.pc = s.pc + 2 ∧ r.sp = s.sp

/-- R79, R85: the two jumps set PC and nothing else; neither target wraps or faults. -/
def Obligations.JumpsSetPc : Prop :=
  ∀ (nnn : Addr) (s : State),
    EncodedAs 0x1000 0xF000 (.jp nnn) ∧ EncodedAs 0xB000 0xF000 (.jpV0 nnn)
    ∧ (Answers (exec (.jp nnn) s) fun t => t.pc.toNat = nnn.toNat ∧ OnlyChanges [.pc] s t)
    ∧ (Answers (exec (.jpV0 nnn) s) fun t => t.pc.toNat = nnn.toNat + (s.getV 0).toNat ∧ OnlyChanges [.pc] s t)

/-- R77, R81, R82: the skips that compare a register with a byte. -/
def Obligations.SkipsOnByte : Prop :=
  ∀ (x : Reg) (nn : Byte) (s : State),
    EncodedAs 0x3000 0xF000 (.seByte x nn) ∧ EncodedAs 0x4000 0xF000 (.sneByte x nn)
    ∧ (Answers (exec (.seByte x nn) s) fun t =>
        t.pc = (if s.getV x = nn then s.pc + 4 else s.pc + 2) ∧ OnlyChanges [.pc] s t)
    ∧ (Answers (exec (.sneByte x nn) s) fun t =>
        t.pc = (if s.getV x ≠ nn then s.pc + 4 else s.pc + 2) ∧ OnlyChanges [.pc] s t)

/-- R77, R83, R84: the skips that compare two registers. -/
def Obligations.SkipsOnRegister : Prop :=
  ∀ (x y : Reg) (s : State),
    EncodedAs 0x5000 0xF00F (.seReg x y) ∧ EncodedAs 0x9000 0xF00F (.sneReg x y)
    ∧ (Answers (exec (.seReg x y) s) fun t =>
        t.pc = (if s.getV x = s.getV y then s.pc + 4 else s.pc + 2) ∧ OnlyChanges [.pc] s t)
    ∧ (Answers (exec (.sneReg x y) s) fun t =>
        t.pc = (if s.getV x ≠ s.getV y then s.pc + 4 else s.pc + 2) ∧ OnlyChanges [.pc] s t)

/-! ## Registers and ALU -/

/-- R89, R90: an immediate byte loaded, or added modulo 256 with no flag. -/
def Obligations.ImmediateLoadAndAdd : Prop :=
  ∀ (x : Reg) (nn : Byte) (s : State),
    EncodedAs 0x6000 0xF000 (.ldByte x nn) ∧ EncodedAs 0x7000 0xF000 (.addByte x nn)
    ∧ Answers (exec (.ldByte x nn) s) (WritesReg x nn s)
    ∧ Answers (exec (.addByte x nn) s) fun t =>
        WritesReg x (t.getV x) s t ∧ (t.getV x).toNat = ((s.getV x).toNat + nn.toNat) % 256

/-- R91 to R94: assign, OR, AND and XOR, bit by bit, with no flag. -/
def Obligations.AssignAndLogic : Prop :=
  ∀ (x y : Reg) (s : State),
    EncodedAs 0x8000 0xF00F (.ldReg x y) ∧ EncodedAs 0x8001 0xF00F (.orReg x y)
    ∧ EncodedAs 0x8002 0xF00F (.andReg x y) ∧ EncodedAs 0x8003 0xF00F (.xorReg x y)
    ∧ Answers (exec (.ldReg x y) s) (WritesReg x (s.getV y) s)
    ∧ (Answers (exec (.orReg x y) s) fun t => WritesReg x (t.getV x) s t
        ∧ ∀ j, (t.getV x).getLsbD j = ((s.getV x).getLsbD j || (s.getV y).getLsbD j))
    ∧ (Answers (exec (.andReg x y) s) fun t => WritesReg x (t.getV x) s t
        ∧ ∀ j, (t.getV x).getLsbD j = ((s.getV x).getLsbD j && (s.getV y).getLsbD j))
    ∧ (Answers (exec (.xorReg x y) s) fun t => WritesReg x (t.getV x) s t
        ∧ ∀ j, (t.getV x).getLsbD j = ((s.getV x).getLsbD j ^^ (s.getV y).getLsbD j))

/-- R95: the sum modulo 256, and VF the carry; with X = 0xF the carry stays. -/
def Obligations.AddWithCarry : Prop :=
  ∀ (x y : Reg) (s : State),
    EncodedAs 0x8004 0xF00F (.addReg x y)
    ∧ Answers (exec (.addReg x y) s) (WritesRegFlag x (((s.getV x).toNat + (s.getV y).toNat) % 256)
        (if (s.getV x).toNat + (s.getV y).toNat > 255 then 1 else 0) s)

/-- R96, R98: VX minus VY, and VY minus VX, modulo 256, and VF 0 exactly on a borrow. -/
def Obligations.SubtractionsWithBorrow : Prop :=
  ∀ (x y : Reg) (s : State),
    EncodedAs 0x8005 0xF00F (.subReg x y) ∧ EncodedAs 0x8007 0xF00F (.subnReg x y)
    ∧ Answers (exec (.subReg x y) s) (WritesRegFlag x (((s.getV x).toNat + 256 - (s.getV y).toNat) % 256)
        (if (s.getV y).toNat > (s.getV x).toNat then 0 else 1) s)
    ∧ Answers (exec (.subnReg x y) s) (WritesRegFlag x (((s.getV y).toNat + 256 - (s.getV x).toNat) % 256)
        (if (s.getV x).toNat > (s.getV y).toNat then 0 else 1) s)

/-- R97, R99: the shifts of VY by one, and VF the bit shifted out. -/
def Obligations.ShiftsTakeVy : Prop :=
  ∀ (x y : Reg) (s : State),
    EncodedAs 0x8006 0xF00F (.shrReg x y) ∧ EncodedAs 0x800E 0xF00F (.shlReg x y)
    ∧ Answers (exec (.shrReg x y) s) (WritesRegFlag x ((s.getV y).toNat / 2) ((s.getV y).toNat % 2) s)
    ∧ Answers (exec (.shlReg x y) s) (WritesRegFlag x ((s.getV y).toNat * 2 % 256) ((s.getV y).toNat / 128) s)

/-- R103: what VF, or VX, ends with when a register of the 8XYn family is VF. -/
def Obligations.FlagRegisterAsOperand : Prop :=
  ∀ s : State,
    let vf := s.getV Reg.vf
    (∀ y, y ≠ Reg.vf →
      let b := s.getV y
      (Answers (exec (.ldReg Reg.vf y) s) fun t => t.getV Reg.vf = b)
      ∧ (Answers (exec (.orReg Reg.vf y) s) fun t => t.getV Reg.vf = vf ||| b)
      ∧ (Answers (exec (.andReg Reg.vf y) s) fun t => t.getV Reg.vf = vf &&& b)
      ∧ (Answers (exec (.xorReg Reg.vf y) s) fun t => t.getV Reg.vf = vf ^^^ b)
      ∧ (Answers (exec (.addReg Reg.vf y) s) fun t => (t.getV Reg.vf).toNat = (vf.toNat + b.toNat) / 256)
      ∧ (Answers (exec (.subReg Reg.vf y) s) fun t => t.getV Reg.vf = if vf.toNat ≥ b.toNat then 1 else 0)
      ∧ (Answers (exec (.shrReg Reg.vf y) s) fun t => (t.getV Reg.vf).toNat = b.toNat % 2)
      ∧ (Answers (exec (.subnReg Reg.vf y) s) fun t => t.getV Reg.vf = if b.toNat ≥ vf.toNat then 1 else 0)
      ∧ (Answers (exec (.shlReg Reg.vf y) s) fun t => (t.getV Reg.vf).toNat = b.toNat / 128))
    ∧ (∀ x, x ≠ Reg.vf →
      let a := s.getV x
      (Answers (exec (.ldReg x Reg.vf) s) fun t => t.getV x = vf ∧ t.getV Reg.vf = vf)
      ∧ (Answers (exec (.orReg x Reg.vf) s) fun t => t.getV x = a ||| vf ∧ t.getV Reg.vf = vf)
      ∧ (Answers (exec (.andReg x Reg.vf) s) fun t => t.getV x = a &&& vf ∧ t.getV Reg.vf = vf)
      ∧ (Answers (exec (.xorReg x Reg.vf) s) fun t => t.getV x = a ^^^ vf ∧ t.getV Reg.vf = vf)
      ∧ (Answers (exec (.addReg x Reg.vf) s) fun t =>
          t.getV x = a + vf ∧ (t.getV Reg.vf).toNat = (a.toNat + vf.toNat) / 256)
      ∧ (Answers (exec (.subReg x Reg.vf) s) fun t =>
          t.getV x = a - vf ∧ t.getV Reg.vf = if a.toNat ≥ vf.toNat then 1 else 0)
      ∧ (Answers (exec (.shrReg x Reg.vf) s) fun t =>
          (t.getV x).toNat = vf.toNat / 2 ∧ (t.getV Reg.vf).toNat = vf.toNat % 2)
      ∧ (Answers (exec (.subnReg x Reg.vf) s) fun t =>
          t.getV x = vf - a ∧ t.getV Reg.vf = if vf.toNat ≥ a.toNat then 1 else 0)
      ∧ (Answers (exec (.shlReg x Reg.vf) s) fun t =>
          (t.getV x).toNat = vf.toNat * 2 % 256 ∧ (t.getV Reg.vf).toNat = vf.toNat / 128))
    ∧ (Answers (exec (.ldReg Reg.vf Reg.vf) s) fun t => t.getV Reg.vf = vf)
    ∧ (Answers (exec (.orReg Reg.vf Reg.vf) s) fun t => t.getV Reg.vf = vf)
    ∧ (Answers (exec (.andReg Reg.vf Reg.vf) s) fun t => t.getV Reg.vf = vf)
    ∧ (Answers (exec (.xorReg Reg.vf Reg.vf) s) fun t => t.getV Reg.vf = 0)
    ∧ (Answers (exec (.addReg Reg.vf Reg.vf) s) fun t => (t.getV Reg.vf).toNat = 2 * vf.toNat / 256)
    ∧ (Answers (exec (.subReg Reg.vf Reg.vf) s) fun t => t.getV Reg.vf = 1)
    ∧ (Answers (exec (.shrReg Reg.vf Reg.vf) s) fun t => (t.getV Reg.vf).toNat = vf.toNat % 2)
    ∧ (Answers (exec (.subnReg Reg.vf Reg.vf) s) fun t => t.getV Reg.vf = 1)
    ∧ (Answers (exec (.shlReg Reg.vf Reg.vf) s) fun t => (t.getV Reg.vf).toNat = vf.toNat / 128)

/-- R100: the random byte of the cycle, masked; for every byte, since `rnd` is free in the statement. -/
def Obligations.RandomByteIsMasked : Prop :=
  ∀ (x : Reg) (nn : Byte) (s : State),
    EncodedAs 0xC000 0xF000 (.rnd x nn) ∧ Answers (exec (.rnd x nn) s) (WritesReg x (s.rnd &&& nn) s)

/-- R102: the random byte of a cycle is read by CXNN alone, and every byte is a possible result. -/
def Obligations.RandomByteReadOnlyByRnd : Prop :=
  (∀ (i : Instr) (r r' : Byte) (s : State), (∀ x nn, i ≠ .rnd x nn) → runInstr i r s = runInstr i r' s)
  ∧ ∀ (x : Reg) (r : Byte) (s : State), Answers (runInstr (.rnd x 0xFF) r s) fun t => t.getV x = r

/-! ## Index register and memory -/

/-- R104, R105, R106: the three writes of I; I is a natural number modulo 65536, and no flag is written. -/
def Obligations.IndexWrites : Prop :=
  (∀ (nnn : Addr) (s : State), EncodedAs 0xA000 0xF000 (.ldI nnn) ∧
    Answers (exec (.ldI nnn) s) fun t => t.i.toNat = nnn.toNat ∧ t.pc = s.pc + 2 ∧ OnlyChanges [.i, .pc] s t)
  ∧ ∀ (x : Reg) (s : State),
    EncodedAs 0xF01E 0xF0FF (.addI x) ∧ EncodedAs 0xF029 0xF0FF (.ldF x)
    ∧ (Answers (exec (.addI x) s) fun t =>
        t.i.toNat = (s.i.toNat + (s.getV x).toNat) % 65536 ∧ t.pc = s.pc + 2 ∧ OnlyChanges [.i, .pc] s t)
    ∧ (Answers (exec (.ldF x) s) fun t =>
        t.i.toNat = (s.getV x).toNat * 5 ∧ t.pc = s.pc + 2 ∧ OnlyChanges [.i, .pc] s t)

/-- R107: the three decimal digits of VX at I, I+1, I+2; every other byte of memory is unchanged. -/
def Obligations.DecimalDigitsStored : Prop :=
  ∀ (x : Reg) (s : State), s.mem.wf = true →
    EncodedAs 0xF033 0xF0FF (.ldB x)
    ∧ (s.i.toNat + 2 ≤ 0xFFF → Answers (exec (.ldB x) s) fun t =>
        (t.mem.read s.i.toNat).toNat = (s.getV x).toNat / 100
        ∧ (t.mem.read (s.i.toNat + 1)).toNat = (s.getV x).toNat / 10 % 10
        ∧ (t.mem.read (s.i.toNat + 2)).toNat = (s.getV x).toNat % 10
        ∧ (∀ a, (a < s.i.toNat ∨ s.i.toNat + 2 < a) → t.mem.read a = s.mem.read a)
        ∧ t.pc = s.pc + 2 ∧ OnlyChanges [.mem, .pc] s t)
    ∧ (0xFFF < s.i.toNat + 2 →
        exec (.ldB x) s = .next (faulted s .dataBounds (encode (.ldB x)) (max s.i.toNat 0x1000)))

/-- R108: V0..VX stored at I, I+1, …; every other byte of memory and I are unchanged. -/
def Obligations.RegistersStored : Prop :=
  ∀ (x : Reg) (s : State), s.mem.wf = true →
    EncodedAs 0xF055 0xF0FF (.storeRegs x)
    ∧ (s.i.toNat + x.val ≤ 0xFFF → Answers (exec (.storeRegs x) s) fun t =>
        (∀ k : Reg, k ≤ x → t.mem.read (s.i.toNat + k.val) = s.getV k)
        ∧ (∀ a, (a < s.i.toNat ∨ s.i.toNat + x.val < a) → t.mem.read a = s.mem.read a)
        ∧ t.pc = s.pc + 2 ∧ OnlyChanges [.mem, .pc] s t)
    ∧ (0xFFF < s.i.toNat + x.val →
        exec (.storeRegs x) s = .next (faulted s .dataBounds (encode (.storeRegs x)) (max s.i.toNat 0x1000)))

/-- R109: V0..VX loaded from I, I+1, …; the other registers, all of memory and I are unchanged. -/
def Obligations.RegistersLoaded : Prop :=
  ∀ (x : Reg) (s : State),
    EncodedAs 0xF065 0xF0FF (.loadRegs x)
    ∧ (s.i.toNat + x.val ≤ 0xFFF → Answers (exec (.loadRegs x) s) fun t =>
        (∀ k : Reg, k ≤ x → t.getV k = s.mem.read (s.i.toNat + k.val)) ∧ (∀ k : Reg, x < k → t.getV k = s.getV k)
        ∧ t.pc = s.pc + 2 ∧ OnlyChanges [.v, .pc] s t)
    ∧ (0xFFF < s.i.toNat + x.val →
        exec (.loadRegs x) s = .next (faulted s .dataBounds (encode (.loadRegs x)) (max s.i.toNat 0x1000)))

/-- R109: FX55 then FX65 with the same X and I restores V0..VX, whatever the registers hold in between. -/
def Obligations.StoreThenLoadRestores : Prop :=
  ∀ (x : Reg) (s : State), s.mem.wf = true → s.i.toNat + x.val ≤ 0xFFF →
    Answers (exec (.storeRegs x) s) fun t =>
      ∀ u : State, u.mem = t.mem → u.i = s.i →
        Answers (exec (.loadRegs x) u) fun w => ∀ k : Reg, k ≤ x → w.getV k = s.getV k

/-- R41, R75: an instruction with an address above 0xFFF in its block faults on the lowest such address, and changes
nothing else. -/
def Obligations.DataFaultNamesTheLowestAddress : Prop :=
  ∀ (i : Instr) (s : State), (∃ k, k < dataCount i ∧ 0xFFF < s.i.toNat + k) →
    ∃ k, k < dataCount i ∧ 0xFFF < s.i.toNat + k ∧ (∀ j, j < k → s.i.toNat + j ≤ 0xFFF)
      ∧ exec i s = .next (faulted s .dataBounds (encode i) (s.i.toNat + k))

/-- R43: an instruction reads no byte of memory outside its own block. -/
def Obligations.DataReadsStayInTheBlock : Prop :=
  ∀ (i : Instr) (s : State) (m : Memory),
    (∀ a, s.i.toNat ≤ a → a < s.i.toNat + dataCount i → m.read a = s.mem.read a) →
    ∃ t t', exec i s = .next t ∧ exec i { s with mem := m } = .next t' ∧ t' = { t with mem := t'.mem }

/-- R51, R148: the word that FX55 writes over the next instruction is the one the next cycle fetches. -/
def Obligations.StoredWordIsFetchedNext : Prop :=
  ∀ (x : Reg) (s : State), s.mem.wf = true → 1 ≤ x.val → s.i = s.pc + 2 → s.i.toNat + x.val ≤ 0xFFF →
    Answers (exec (.storeRegs x) s) fun t => fetch t = .ok (s.getV 0 ++ s.getV 1)

/-! ## Keypad and timers -/

/-- R111 to R114: the key skips read the level of the key, clear it when the parameter says so, and fault on a VX that
names no key. -/
def Obligations.KeySkips : Prop :=
  ∀ (x : Reg) (s : State),
    EncodedAs 0xE09E 0xF0FF (.skp x) ∧ EncodedAs 0xE0A1 0xF0FF (.sknp x)
    ∧ (∀ k : Fin 16, (s.getV x).toNat = k.val →
        (Answers (exec (.skp x) s) fun t =>
          t.pc = (if s.key[k] = true then s.pc + 4 else s.pc + 2)
          ∧ t.key[k] = (if s.params.keyClearOnRead then false else s.key[k])
          ∧ (∀ j : Fin 16, j ≠ k → t.key[j] = s.key[j]) ∧ OnlyChanges [.key, .pc] s t)
        ∧ (Answers (exec (.sknp x) s) fun t =>
          t.pc = (if s.key[k] = false then s.pc + 4 else s.pc + 2)
          ∧ t.key[k] = (if s.params.keyClearOnRead then false else s.key[k])
          ∧ (∀ j : Fin 16, j ≠ k → t.key[j] = s.key[j]) ∧ OnlyChanges [.key, .pc] s t))
    ∧ (15 < (s.getV x).toNat →
        exec (.skp x) s = .next (faulted s .keyIndex (encode (.skp x)) (s.getV x).toNat)
        ∧ exec (.sknp x) s = .next (faulted s .keyIndex (encode (.sknp x)) (s.getV x).toNat))

/-- R116: FX0A takes the least key that is down and clears none; with no key down it writes nothing at all. -/
def Obligations.WaitForKey : Prop :=
  ∀ (x : Reg) (s : State),
    EncodedAs 0xF00A 0xF0FF (.ldVxK x)
    ∧ (∀ k : Fin 16, s.key[k] = true → (∀ j : Fin 16, j < k → s.key[j] = false) →
        Answers (exec (.ldVxK x) s) fun t => (t.getV x).toNat = k.val ∧ WritesReg x (t.getV x) s t)
    ∧ ((∀ k : Fin 16, s.key[k] = false) → exec (.ldVxK x) s = .next s)

/-- R119: a waiting cycle changes only REDRAW and ERR. -/
def Obligations.WaitingCycleChangesNothingElse : Prop :=
  ∀ (x : Reg) (r : Byte) (s : State), s.status = .running → s.pc.toNat ≤ 0xFFE →
    decodeWord (s.mem.read s.pc.toNat ++ s.mem.read (s.pc.toNat + 1)) = .ok (.ldVxK x) →
    (∀ k : Fin 16, s.key[k] = false) →
    cycle r s = .next { s with redraw := false, err := .noReport }

/-- R115, R117, R118: the timer instructions. -/
def Obligations.TimerReadAndWrites : Prop :=
  ∀ (x : Reg) (s : State),
    EncodedAs 0xF007 0xF0FF (.ldVxDt x) ∧ EncodedAs 0xF015 0xF0FF (.ldDtVx x) ∧ EncodedAs 0xF018 0xF0FF (.ldStVx x)
    ∧ Answers (exec (.ldVxDt x) s) (WritesReg x s.dt s)
    ∧ (Answers (exec (.ldDtVx x) s) fun t => t.dt = s.getV x ∧ t.pc = s.pc + 2 ∧ OnlyChanges [.dt, .pc] s t)
    ∧ (Answers (exec (.ldStVx x) s) fun t => t.st = s.getV x ∧ t.pc = s.pc + 2 ∧ OnlyChanges [.st, .pc] s t)

/-- R27: no instruction presses a key: a key that is down after an instruction was down before it. -/
def Obligations.InstructionsNeverPressKeys : Prop :=
  ∀ (i : Instr) (s : State), Answers (exec i s) fun t => ∀ k : Fin 16, t.key[k] = true → s.key[k] = true

/-! ## Timers, transactions and status -/

/-- R129: a tick of a running core counts both timers down to 0 and no further; a core that does not run ignores it. -/
def Obligations.TickCountsDown : Prop :=
  ∀ s : State,
    (s.status = .running →
      (tick s).dt.toNat = s.dt.toNat - 1 ∧ (tick s).st.toNat = s.st.toNat - 1
      ∧ (tick s).audioDue = (if s.st = 1 then true else s.audioDue)
      ∧ OnlyChanges [.dt, .st, .audioDue] s (tick s))
    ∧ (s.status ≠ .running → tick s = s)

/-- R130: from a state in which the audio-due signal is not raised, a step raises it exactly when the transaction it applies
makes a tick, alone or as the second half of a Step, and that tick finds the core running with ST = 1: ST goes from 1 to 0.
The tick is of the state without that transaction, or of the state after the Step's cycle on it (R67; the waiting
transactions are log entry 3). -/
def Obligations.AudioDueOnlyFromTick : Prop :=
  ∀ s : State, s.audioDue = false →
    Answers (step s) fun t =>
      t.audioDue = true ↔
        (∃ rest, s.inbox = .tick :: rest ∧ s.status = .running ∧ s.st = 1
          ∧ t = tick { s with inbox := rest } ∧ t.st = 0)
        ∨ (∃ doCycle r rest u, s.inbox = .step doCycle true r :: rest
          ∧ stepBoth doCycle false r { s with inbox := rest } = .next u ∧ u.status = .running ∧ u.st = 1
          ∧ t = tick u ∧ t.st = 0)

/-- R67, R124: a Step is the cycle, then the tick; when the cycle faults the tick does nothing. -/
def Obligations.StepIsCycleThenTick : Prop :=
  ∀ (r : Byte) (s : State),
    stepBoth false false r s = .next s ∧ stepBoth false true r s = .next (tick s) ∧ stepBoth true false r s = cycle r s
    ∧ Answers (cycle r s) fun t =>
        stepBoth true true r s = .next (tick t) ∧ (t.status ≠ .running → stepBoth true true r s = .next t)

/-- R133, R134, R135, R139: what the host's transactions do, whatever STATUS is. -/
def Obligations.HostTransactions : Prop :=
  ∀ s : State,
    (∀ (k : Fin 16) (d : Bool), Answers (applyTransaction (.keyWrite k d) s) fun t =>
      t.key[k] = d ∧ (∀ j : Fin 16, j ≠ k → t.key[j] = s.key[j]) ∧ OnlyChanges [.key] s t)
    ∧ (Answers (applyTransaction .audioAck s) fun t => t.audioDue = false ∧ OnlyChanges [.audioDue] s t)
    ∧ (Answers (applyTransaction .shutdown s) fun t =>
        t.status = (if s.status = .running then .stopped else s.status) ∧ OnlyChanges [.status] s t)
    ∧ applyTransaction .read s = .next s

/-- R31: in HALTED and STOPPED every Cycle, Tick and Step leaves all state unchanged. -/
def Obligations.OnlyARunningCoreRuns : Prop :=
  ∀ s : State, s.status ≠ .running →
    (∀ r, applyTransaction (.cycle r) s = .next s) ∧ applyTransaction .tick s = .next s
    ∧ (∀ a b r, applyTransaction (.step a b r) s = .next s) ∧ (s.inbox = [] → step s = .next s)

/-- R123, R125, R139: no step leaves HALTED or STOPPED, and the fault record of a halted core is never cleared. -/
def Obligations.NoStepResumesTheCore : Prop :=
  ∀ s : State, s.status ≠ .running → Answers (step s) fun t => t.status = s.status ∧ t.fault = s.fault

/-- R17, R8: no step changes the parameters the core was constructed with, or the model's latch of the random byte. -/
def Obligations.ParametersNeverChange : Prop :=
  ∀ s : State, Answers (step s) fun t => t.params = s.params ∧ t.rnd = s.rnd

/-- R78, R87: a stack entry at or above SP is never observed: two states that differ only in such entries go on alike. -/
def Obligations.DeadStackEntriesUnobserved : Prop :=
  ∀ (i : Instr) (s : State) (k : Vector Word 16),
    (∀ j : Fin 16, j.val < s.sp.val → k[j] = s.stack[j]) →
    ∃ t k', exec i s = .next t ∧ exec i { s with stack := k } = .next { t with stack := k' }
      ∧ ∀ j : Fin 16, j.val < t.sp.val → k'[j] = t.stack[j]

/-! ## Construction and the invariant -/

/-- R142: a ROM of more than 3583 bytes builds no core; any other ROM builds one. -/
def Obligations.ConstructRefusesLongRoms : Prop :=
  ∀ (rom : List Byte) (font : Vector Byte 80) (p : Params),
    (3583 < rom.length → construct rom font p = .error (.romTooLarge rom.length))
    ∧ (rom.length ≤ 3583 → ∃ s, construct rom font p = .ok s)

/-- R35, R46, R141: the state and the memory map of a new core. -/
def Obligations.ConstructedCore : Prop :=
  ∀ (rom : List Byte) (font : Vector Byte 80) (p : Params) (s : State), construct rom font p = .ok s →
    (∀ k (h : k < 80), s.mem.read k = font[k])
    ∧ (∀ k (h : k < rom.length), s.mem.read (0x200 + k) = rom[k])
    ∧ (∀ a, 80 ≤ a → a ≤ 0xFFF → (a < 0x200 ∨ 0x200 + rom.length ≤ a) → s.mem.read a = 0)
    ∧ s.pc = 0x200 ∧ s.sp = 0 ∧ s.dt = 0 ∧ s.st = 0 ∧ (∀ x, s.getV x = 0) ∧ s.i = 0
    ∧ (∀ j : Fin 16, s.stack[j] = 0) ∧ (∀ j : Fin 16, s.key[j] = false) ∧ (∀ x y, s.fb.cell x y = false)
    ∧ s.redraw = false ∧ s.audioDue = false ∧ s.status = .running
    ∧ s.fault = { cause := .noFault, pc := 0, word := 0, addr := 0 } ∧ s.err = .noReport ∧ s.params = p

/-- The reset state is the core of an empty ROM with the default font and parameters (R8, R141), and its invariant. -/
def Obligations.ResetIsTheEmptyRomCore : Prop :=
  construct [] fontParameter Config.defaultParams = .ok State.reset ∧ CoreInvariant State.reset

/-- Every core that Construct builds meets the invariant. -/
def Obligations.InvariantAtConstruct : Prop :=
  ∀ (rom : List Byte) (font : Vector Byte 80) (p : Params) (s : State), construct rom font p = .ok s → CoreInvariant s

/-- Every step keeps the invariant: memory stays canonical and inside 0x000..0xFFF, and STATUS, FAULT, ERR and the policy
stay consistent (R31, R32, R38, R60, R121, R126). -/
def Obligations.EveryStepKeepsTheInvariant : Prop :=
  ∀ s : State, CoreInvariant s → Answers (step s) CoreInvariant
end

