-- ==== Sys2Proof/Laws/Decode.lean ====
section
/-! SUPPORT. Each encoding format (rule R55): what the row's mask keeps of an encoded word, and that the fields of rule R54
give the operands back. -/

namespace Sys2Proof

@[simp] theorem regOf_regField (x : Reg) : regOf (regField x) = x := rfl

theorem encodeA_mask (f : Nibble) (a : Addr) : encodeA f a &&& 0xF000 = encodeA f 0 := by
  refine BitVec.eq_of_getLsbD_eq fun k hk => ?_
  simp only [encodeA, BitVec.getLsbD_and, BitVec.getLsbD_append]
  interval_cases k <;> simp

theorem encodeXNN_mask (f : Nibble) (x : Reg) (nn : Byte) : encodeXNN f x nn &&& 0xF000 = encodeXNN f 0 0 := by
  refine BitVec.eq_of_getLsbD_eq fun k hk => ?_
  simp only [encodeXNN, regField, BitVec.getLsbD_and, BitVec.getLsbD_append]
  interval_cases k <;> simp

theorem encodeXYN_mask (f : Nibble) (x y : Reg) (c : Nibble) : encodeXYN f x y c &&& 0xF00F = encodeXYN f 0 0 c := by
  refine BitVec.eq_of_getLsbD_eq fun k hk => ?_
  simp only [encodeXYN, regField, BitVec.getLsbD_and, BitVec.getLsbD_append]
  interval_cases k <;> simp

theorem encodeXYN_mask_family (f : Nibble) (x y : Reg) (c : Nibble) :
    encodeXYN f x y c &&& 0xF000 = encodeXYN f 0 0 0 := by
  refine BitVec.eq_of_getLsbD_eq fun k hk => ?_
  simp only [encodeXYN, regField, BitVec.getLsbD_and, BitVec.getLsbD_append]
  interval_cases k <;> simp

theorem encodeX_mask (f : Nibble) (x : Reg) (c : Byte) : encodeX f x c &&& 0xF0FF = encodeX f 0 c := by
  refine BitVec.eq_of_getLsbD_eq fun k hk => ?_
  simp only [encodeX, regField, BitVec.getLsbD_and, BitVec.getLsbD_append]
  interval_cases k <;> simp

theorem fieldsOf_encodeA (f : Nibble) (a : Addr) : (fieldsOf (encodeA f a)).nnn = a := by
  ext k hk
  simp only [fieldsOf, encodeA, BitVec.getElem_extractLsb', BitVec.getLsbD_append]
  simp [hk]

theorem fieldsOf_encodeXNN (f : Nibble) (x : Reg) (nn : Byte) :
    (fieldsOf (encodeXNN f x nn)).x = regField x ∧ (fieldsOf (encodeXNN f x nn)).nn = nn := by
  refine ⟨?_, ?_⟩ <;> ext k hk <;> simp only [fieldsOf, encodeXNN, BitVec.getElem_extractLsb', BitVec.getLsbD_append] <;>
    interval_cases k <;> simp

theorem fieldsOf_encodeXYN (f : Nibble) (x y : Reg) (c : Nibble) :
    (fieldsOf (encodeXYN f x y c)).x = regField x ∧ (fieldsOf (encodeXYN f x y c)).y = regField y
      ∧ (fieldsOf (encodeXYN f x y c)).n = c := by
  refine ⟨?_, ?_, ?_⟩ <;> ext k hk <;>
    simp only [fieldsOf, encodeXYN, BitVec.getElem_extractLsb', BitVec.getLsbD_append] <;>
    interval_cases k <;> simp

theorem fieldsOf_encodeX (f : Nibble) (x : Reg) (c : Byte) : (fieldsOf (encodeX f x c)).x = regField x := by
  ext k hk
  simp only [fieldsOf, encodeX, BitVec.getElem_extractLsb', BitVec.getLsbD_append]
  interval_cases k <;> simp

end Sys2Proof
end

