-- ==== Sys2Proof/Laws/State.lean ====
section
/-! SUPPORT. What each update of State does to each field: one lemma per field per update, each true by unfolding. -/

namespace Sys2Proof.Machine

@[simp] theorem State.setV_mem (s : State) (x : Reg) (b : Byte) : (s.setV x b).mem = s.mem := rfl
@[simp] theorem State.setV_v (s : State) (x : Reg) (b : Byte) : (s.setV x b).v = s.v.set x.val b x.isLt := rfl
@[simp] theorem State.setV_i (s : State) (x : Reg) (b : Byte) : (s.setV x b).i = s.i := rfl
@[simp] theorem State.setV_pc (s : State) (x : Reg) (b : Byte) : (s.setV x b).pc = s.pc := rfl
@[simp] theorem State.setV_stack (s : State) (x : Reg) (b : Byte) : (s.setV x b).stack = s.stack := rfl
@[simp] theorem State.setV_sp (s : State) (x : Reg) (b : Byte) : (s.setV x b).sp = s.sp := rfl
@[simp] theorem State.setV_dt (s : State) (x : Reg) (b : Byte) : (s.setV x b).dt = s.dt := rfl
@[simp] theorem State.setV_st (s : State) (x : Reg) (b : Byte) : (s.setV x b).st = s.st := rfl
@[simp] theorem State.setV_key (s : State) (x : Reg) (b : Byte) : (s.setV x b).key = s.key := rfl
@[simp] theorem State.setV_fb (s : State) (x : Reg) (b : Byte) : (s.setV x b).fb = s.fb := rfl
@[simp] theorem State.setV_redraw (s : State) (x : Reg) (b : Byte) : (s.setV x b).redraw = s.redraw := rfl
@[simp] theorem State.setV_audioDue (s : State) (x : Reg) (b : Byte) : (s.setV x b).audioDue = s.audioDue := rfl
@[simp] theorem State.setV_status (s : State) (x : Reg) (b : Byte) : (s.setV x b).status = s.status := rfl
@[simp] theorem State.setV_fault (s : State) (x : Reg) (b : Byte) : (s.setV x b).fault = s.fault := rfl
@[simp] theorem State.setV_err (s : State) (x : Reg) (b : Byte) : (s.setV x b).err = s.err := rfl
@[simp] theorem State.setV_params (s : State) (x : Reg) (b : Byte) : (s.setV x b).params = s.params := rfl
@[simp] theorem State.setV_rnd (s : State) (x : Reg) (b : Byte) : (s.setV x b).rnd = s.rnd := rfl
@[simp] theorem State.setV_drawn (s : State) (x : Reg) (b : Byte) : (s.setV x b).drawn = s.drawn := rfl
@[simp] theorem State.setV_inbox (s : State) (x : Reg) (b : Byte) : (s.setV x b).inbox = s.inbox := rfl

@[simp] theorem State.goto_mem (s : State) (a : Word) : (s.goto a).mem = s.mem := rfl
@[simp] theorem State.goto_v (s : State) (a : Word) : (s.goto a).v = s.v := rfl
@[simp] theorem State.goto_i (s : State) (a : Word) : (s.goto a).i = s.i := rfl
@[simp] theorem State.goto_pc (s : State) (a : Word) : (s.goto a).pc = a := rfl
@[simp] theorem State.goto_stack (s : State) (a : Word) : (s.goto a).stack = s.stack := rfl
@[simp] theorem State.goto_sp (s : State) (a : Word) : (s.goto a).sp = s.sp := rfl
@[simp] theorem State.goto_dt (s : State) (a : Word) : (s.goto a).dt = s.dt := rfl
@[simp] theorem State.goto_st (s : State) (a : Word) : (s.goto a).st = s.st := rfl
@[simp] theorem State.goto_key (s : State) (a : Word) : (s.goto a).key = s.key := rfl
@[simp] theorem State.goto_fb (s : State) (a : Word) : (s.goto a).fb = s.fb := rfl
@[simp] theorem State.goto_redraw (s : State) (a : Word) : (s.goto a).redraw = s.redraw := rfl
@[simp] theorem State.goto_audioDue (s : State) (a : Word) : (s.goto a).audioDue = s.audioDue := rfl
@[simp] theorem State.goto_status (s : State) (a : Word) : (s.goto a).status = s.status := rfl
@[simp] theorem State.goto_fault (s : State) (a : Word) : (s.goto a).fault = s.fault := rfl
@[simp] theorem State.goto_err (s : State) (a : Word) : (s.goto a).err = s.err := rfl
@[simp] theorem State.goto_params (s : State) (a : Word) : (s.goto a).params = s.params := rfl
@[simp] theorem State.goto_rnd (s : State) (a : Word) : (s.goto a).rnd = s.rnd := rfl
@[simp] theorem State.goto_drawn (s : State) (a : Word) : (s.goto a).drawn = s.drawn := rfl
@[simp] theorem State.goto_inbox (s : State) (a : Word) : (s.goto a).inbox = s.inbox := rfl

@[simp] theorem State.advance_mem (s : State) : (s.advance).mem = s.mem := rfl
@[simp] theorem State.advance_v (s : State) : (s.advance).v = s.v := rfl
@[simp] theorem State.advance_i (s : State) : (s.advance).i = s.i := rfl
@[simp] theorem State.advance_pc (s : State) : (s.advance).pc = s.pc + 2 := rfl
@[simp] theorem State.advance_stack (s : State) : (s.advance).stack = s.stack := rfl
@[simp] theorem State.advance_sp (s : State) : (s.advance).sp = s.sp := rfl
@[simp] theorem State.advance_dt (s : State) : (s.advance).dt = s.dt := rfl
@[simp] theorem State.advance_st (s : State) : (s.advance).st = s.st := rfl
@[simp] theorem State.advance_key (s : State) : (s.advance).key = s.key := rfl
@[simp] theorem State.advance_fb (s : State) : (s.advance).fb = s.fb := rfl
@[simp] theorem State.advance_redraw (s : State) : (s.advance).redraw = s.redraw := rfl
@[simp] theorem State.advance_audioDue (s : State) : (s.advance).audioDue = s.audioDue := rfl
@[simp] theorem State.advance_status (s : State) : (s.advance).status = s.status := rfl
@[simp] theorem State.advance_fault (s : State) : (s.advance).fault = s.fault := rfl
@[simp] theorem State.advance_err (s : State) : (s.advance).err = s.err := rfl
@[simp] theorem State.advance_params (s : State) : (s.advance).params = s.params := rfl
@[simp] theorem State.advance_rnd (s : State) : (s.advance).rnd = s.rnd := rfl
@[simp] theorem State.advance_drawn (s : State) : (s.advance).drawn = s.drawn := rfl
@[simp] theorem State.advance_inbox (s : State) : (s.advance).inbox = s.inbox := rfl

@[simp] theorem State.skip_mem (s : State) : (s.skip).mem = s.mem := rfl
@[simp] theorem State.skip_v (s : State) : (s.skip).v = s.v := rfl
@[simp] theorem State.skip_i (s : State) : (s.skip).i = s.i := rfl
@[simp] theorem State.skip_pc (s : State) : (s.skip).pc = s.pc + 4 := rfl
@[simp] theorem State.skip_stack (s : State) : (s.skip).stack = s.stack := rfl
@[simp] theorem State.skip_sp (s : State) : (s.skip).sp = s.sp := rfl
@[simp] theorem State.skip_dt (s : State) : (s.skip).dt = s.dt := rfl
@[simp] theorem State.skip_st (s : State) : (s.skip).st = s.st := rfl
@[simp] theorem State.skip_key (s : State) : (s.skip).key = s.key := rfl
@[simp] theorem State.skip_fb (s : State) : (s.skip).fb = s.fb := rfl
@[simp] theorem State.skip_redraw (s : State) : (s.skip).redraw = s.redraw := rfl
@[simp] theorem State.skip_audioDue (s : State) : (s.skip).audioDue = s.audioDue := rfl
@[simp] theorem State.skip_status (s : State) : (s.skip).status = s.status := rfl
@[simp] theorem State.skip_fault (s : State) : (s.skip).fault = s.fault := rfl
@[simp] theorem State.skip_err (s : State) : (s.skip).err = s.err := rfl
@[simp] theorem State.skip_params (s : State) : (s.skip).params = s.params := rfl
@[simp] theorem State.skip_rnd (s : State) : (s.skip).rnd = s.rnd := rfl
@[simp] theorem State.skip_drawn (s : State) : (s.skip).drawn = s.drawn := rfl
@[simp] theorem State.skip_inbox (s : State) : (s.skip).inbox = s.inbox := rfl

@[simp] theorem State.setI_mem (s : State) (a : Word) : (s.setI a).mem = s.mem := rfl
@[simp] theorem State.setI_v (s : State) (a : Word) : (s.setI a).v = s.v := rfl
@[simp] theorem State.setI_i (s : State) (a : Word) : (s.setI a).i = a := rfl
@[simp] theorem State.setI_pc (s : State) (a : Word) : (s.setI a).pc = s.pc := rfl
@[simp] theorem State.setI_stack (s : State) (a : Word) : (s.setI a).stack = s.stack := rfl
@[simp] theorem State.setI_sp (s : State) (a : Word) : (s.setI a).sp = s.sp := rfl
@[simp] theorem State.setI_dt (s : State) (a : Word) : (s.setI a).dt = s.dt := rfl
@[simp] theorem State.setI_st (s : State) (a : Word) : (s.setI a).st = s.st := rfl
@[simp] theorem State.setI_key (s : State) (a : Word) : (s.setI a).key = s.key := rfl
@[simp] theorem State.setI_fb (s : State) (a : Word) : (s.setI a).fb = s.fb := rfl
@[simp] theorem State.setI_redraw (s : State) (a : Word) : (s.setI a).redraw = s.redraw := rfl
@[simp] theorem State.setI_audioDue (s : State) (a : Word) : (s.setI a).audioDue = s.audioDue := rfl
@[simp] theorem State.setI_status (s : State) (a : Word) : (s.setI a).status = s.status := rfl
@[simp] theorem State.setI_fault (s : State) (a : Word) : (s.setI a).fault = s.fault := rfl
@[simp] theorem State.setI_err (s : State) (a : Word) : (s.setI a).err = s.err := rfl
@[simp] theorem State.setI_params (s : State) (a : Word) : (s.setI a).params = s.params := rfl
@[simp] theorem State.setI_rnd (s : State) (a : Word) : (s.setI a).rnd = s.rnd := rfl
@[simp] theorem State.setI_drawn (s : State) (a : Word) : (s.setI a).drawn = s.drawn := rfl
@[simp] theorem State.setI_inbox (s : State) (a : Word) : (s.setI a).inbox = s.inbox := rfl

@[simp] theorem State.setDt_mem (s : State) (b : Byte) : (s.setDt b).mem = s.mem := rfl
@[simp] theorem State.setDt_v (s : State) (b : Byte) : (s.setDt b).v = s.v := rfl
@[simp] theorem State.setDt_i (s : State) (b : Byte) : (s.setDt b).i = s.i := rfl
@[simp] theorem State.setDt_pc (s : State) (b : Byte) : (s.setDt b).pc = s.pc := rfl
@[simp] theorem State.setDt_stack (s : State) (b : Byte) : (s.setDt b).stack = s.stack := rfl
@[simp] theorem State.setDt_sp (s : State) (b : Byte) : (s.setDt b).sp = s.sp := rfl
@[simp] theorem State.setDt_dt (s : State) (b : Byte) : (s.setDt b).dt = b := rfl
@[simp] theorem State.setDt_st (s : State) (b : Byte) : (s.setDt b).st = s.st := rfl
@[simp] theorem State.setDt_key (s : State) (b : Byte) : (s.setDt b).key = s.key := rfl
@[simp] theorem State.setDt_fb (s : State) (b : Byte) : (s.setDt b).fb = s.fb := rfl
@[simp] theorem State.setDt_redraw (s : State) (b : Byte) : (s.setDt b).redraw = s.redraw := rfl
@[simp] theorem State.setDt_audioDue (s : State) (b : Byte) : (s.setDt b).audioDue = s.audioDue := rfl
@[simp] theorem State.setDt_status (s : State) (b : Byte) : (s.setDt b).status = s.status := rfl
@[simp] theorem State.setDt_fault (s : State) (b : Byte) : (s.setDt b).fault = s.fault := rfl
@[simp] theorem State.setDt_err (s : State) (b : Byte) : (s.setDt b).err = s.err := rfl
@[simp] theorem State.setDt_params (s : State) (b : Byte) : (s.setDt b).params = s.params := rfl
@[simp] theorem State.setDt_rnd (s : State) (b : Byte) : (s.setDt b).rnd = s.rnd := rfl
@[simp] theorem State.setDt_drawn (s : State) (b : Byte) : (s.setDt b).drawn = s.drawn := rfl
@[simp] theorem State.setDt_inbox (s : State) (b : Byte) : (s.setDt b).inbox = s.inbox := rfl

@[simp] theorem State.setSt_mem (s : State) (b : Byte) : (s.setSt b).mem = s.mem := rfl
@[simp] theorem State.setSt_v (s : State) (b : Byte) : (s.setSt b).v = s.v := rfl
@[simp] theorem State.setSt_i (s : State) (b : Byte) : (s.setSt b).i = s.i := rfl
@[simp] theorem State.setSt_pc (s : State) (b : Byte) : (s.setSt b).pc = s.pc := rfl
@[simp] theorem State.setSt_stack (s : State) (b : Byte) : (s.setSt b).stack = s.stack := rfl
@[simp] theorem State.setSt_sp (s : State) (b : Byte) : (s.setSt b).sp = s.sp := rfl
@[simp] theorem State.setSt_dt (s : State) (b : Byte) : (s.setSt b).dt = s.dt := rfl
@[simp] theorem State.setSt_st (s : State) (b : Byte) : (s.setSt b).st = b := rfl
@[simp] theorem State.setSt_key (s : State) (b : Byte) : (s.setSt b).key = s.key := rfl
@[simp] theorem State.setSt_fb (s : State) (b : Byte) : (s.setSt b).fb = s.fb := rfl
@[simp] theorem State.setSt_redraw (s : State) (b : Byte) : (s.setSt b).redraw = s.redraw := rfl
@[simp] theorem State.setSt_audioDue (s : State) (b : Byte) : (s.setSt b).audioDue = s.audioDue := rfl
@[simp] theorem State.setSt_status (s : State) (b : Byte) : (s.setSt b).status = s.status := rfl
@[simp] theorem State.setSt_fault (s : State) (b : Byte) : (s.setSt b).fault = s.fault := rfl
@[simp] theorem State.setSt_err (s : State) (b : Byte) : (s.setSt b).err = s.err := rfl
@[simp] theorem State.setSt_params (s : State) (b : Byte) : (s.setSt b).params = s.params := rfl
@[simp] theorem State.setSt_rnd (s : State) (b : Byte) : (s.setSt b).rnd = s.rnd := rfl
@[simp] theorem State.setSt_drawn (s : State) (b : Byte) : (s.setSt b).drawn = s.drawn := rfl
@[simp] theorem State.setSt_inbox (s : State) (b : Byte) : (s.setSt b).inbox = s.inbox := rfl

@[simp] theorem State.setKey_mem (s : State) (k : Fin 16) (d : Bool) : (s.setKey k d).mem = s.mem := rfl
@[simp] theorem State.setKey_v (s : State) (k : Fin 16) (d : Bool) : (s.setKey k d).v = s.v := rfl
@[simp] theorem State.setKey_i (s : State) (k : Fin 16) (d : Bool) : (s.setKey k d).i = s.i := rfl
@[simp] theorem State.setKey_pc (s : State) (k : Fin 16) (d : Bool) : (s.setKey k d).pc = s.pc := rfl
@[simp] theorem State.setKey_stack (s : State) (k : Fin 16) (d : Bool) : (s.setKey k d).stack = s.stack := rfl
@[simp] theorem State.setKey_sp (s : State) (k : Fin 16) (d : Bool) : (s.setKey k d).sp = s.sp := rfl
@[simp] theorem State.setKey_dt (s : State) (k : Fin 16) (d : Bool) : (s.setKey k d).dt = s.dt := rfl
@[simp] theorem State.setKey_st (s : State) (k : Fin 16) (d : Bool) : (s.setKey k d).st = s.st := rfl
@[simp] theorem State.setKey_key (s : State) (k : Fin 16) (d : Bool) : (s.setKey k d).key = s.key.set k.val d k.isLt := rfl
@[simp] theorem State.setKey_fb (s : State) (k : Fin 16) (d : Bool) : (s.setKey k d).fb = s.fb := rfl
@[simp] theorem State.setKey_redraw (s : State) (k : Fin 16) (d : Bool) : (s.setKey k d).redraw = s.redraw := rfl
@[simp] theorem State.setKey_audioDue (s : State) (k : Fin 16) (d : Bool) : (s.setKey k d).audioDue = s.audioDue := rfl
@[simp] theorem State.setKey_status (s : State) (k : Fin 16) (d : Bool) : (s.setKey k d).status = s.status := rfl
@[simp] theorem State.setKey_fault (s : State) (k : Fin 16) (d : Bool) : (s.setKey k d).fault = s.fault := rfl
@[simp] theorem State.setKey_err (s : State) (k : Fin 16) (d : Bool) : (s.setKey k d).err = s.err := rfl
@[simp] theorem State.setKey_params (s : State) (k : Fin 16) (d : Bool) : (s.setKey k d).params = s.params := rfl
@[simp] theorem State.setKey_rnd (s : State) (k : Fin 16) (d : Bool) : (s.setKey k d).rnd = s.rnd := rfl
@[simp] theorem State.setKey_drawn (s : State) (k : Fin 16) (d : Bool) : (s.setKey k d).drawn = s.drawn := rfl
@[simp] theorem State.setKey_inbox (s : State) (k : Fin 16) (d : Bool) : (s.setKey k d).inbox = s.inbox := rfl

@[simp] theorem State.setMem_mem (s : State) (m : Memory) : (s.setMem m).mem = m := rfl
@[simp] theorem State.setMem_v (s : State) (m : Memory) : (s.setMem m).v = s.v := rfl
@[simp] theorem State.setMem_i (s : State) (m : Memory) : (s.setMem m).i = s.i := rfl
@[simp] theorem State.setMem_pc (s : State) (m : Memory) : (s.setMem m).pc = s.pc := rfl
@[simp] theorem State.setMem_stack (s : State) (m : Memory) : (s.setMem m).stack = s.stack := rfl
@[simp] theorem State.setMem_sp (s : State) (m : Memory) : (s.setMem m).sp = s.sp := rfl
@[simp] theorem State.setMem_dt (s : State) (m : Memory) : (s.setMem m).dt = s.dt := rfl
@[simp] theorem State.setMem_st (s : State) (m : Memory) : (s.setMem m).st = s.st := rfl
@[simp] theorem State.setMem_key (s : State) (m : Memory) : (s.setMem m).key = s.key := rfl
@[simp] theorem State.setMem_fb (s : State) (m : Memory) : (s.setMem m).fb = s.fb := rfl
@[simp] theorem State.setMem_redraw (s : State) (m : Memory) : (s.setMem m).redraw = s.redraw := rfl
@[simp] theorem State.setMem_audioDue (s : State) (m : Memory) : (s.setMem m).audioDue = s.audioDue := rfl
@[simp] theorem State.setMem_status (s : State) (m : Memory) : (s.setMem m).status = s.status := rfl
@[simp] theorem State.setMem_fault (s : State) (m : Memory) : (s.setMem m).fault = s.fault := rfl
@[simp] theorem State.setMem_err (s : State) (m : Memory) : (s.setMem m).err = s.err := rfl
@[simp] theorem State.setMem_params (s : State) (m : Memory) : (s.setMem m).params = s.params := rfl
@[simp] theorem State.setMem_rnd (s : State) (m : Memory) : (s.setMem m).rnd = s.rnd := rfl
@[simp] theorem State.setMem_drawn (s : State) (m : Memory) : (s.setMem m).drawn = s.drawn := rfl
@[simp] theorem State.setMem_inbox (s : State) (m : Memory) : (s.setMem m).inbox = s.inbox := rfl

@[simp] theorem State.setFb_mem (s : State) (fb : FrameBuffer) : (s.setFb fb).mem = s.mem := rfl
@[simp] theorem State.setFb_v (s : State) (fb : FrameBuffer) : (s.setFb fb).v = s.v := rfl
@[simp] theorem State.setFb_i (s : State) (fb : FrameBuffer) : (s.setFb fb).i = s.i := rfl
@[simp] theorem State.setFb_pc (s : State) (fb : FrameBuffer) : (s.setFb fb).pc = s.pc := rfl
@[simp] theorem State.setFb_stack (s : State) (fb : FrameBuffer) : (s.setFb fb).stack = s.stack := rfl
@[simp] theorem State.setFb_sp (s : State) (fb : FrameBuffer) : (s.setFb fb).sp = s.sp := rfl
@[simp] theorem State.setFb_dt (s : State) (fb : FrameBuffer) : (s.setFb fb).dt = s.dt := rfl
@[simp] theorem State.setFb_st (s : State) (fb : FrameBuffer) : (s.setFb fb).st = s.st := rfl
@[simp] theorem State.setFb_key (s : State) (fb : FrameBuffer) : (s.setFb fb).key = s.key := rfl
@[simp] theorem State.setFb_fb (s : State) (fb : FrameBuffer) : (s.setFb fb).fb = fb := rfl
@[simp] theorem State.setFb_redraw (s : State) (fb : FrameBuffer) : (s.setFb fb).redraw = s.redraw := rfl
@[simp] theorem State.setFb_audioDue (s : State) (fb : FrameBuffer) : (s.setFb fb).audioDue = s.audioDue := rfl
@[simp] theorem State.setFb_status (s : State) (fb : FrameBuffer) : (s.setFb fb).status = s.status := rfl
@[simp] theorem State.setFb_fault (s : State) (fb : FrameBuffer) : (s.setFb fb).fault = s.fault := rfl
@[simp] theorem State.setFb_err (s : State) (fb : FrameBuffer) : (s.setFb fb).err = s.err := rfl
@[simp] theorem State.setFb_params (s : State) (fb : FrameBuffer) : (s.setFb fb).params = s.params := rfl
@[simp] theorem State.setFb_rnd (s : State) (fb : FrameBuffer) : (s.setFb fb).rnd = s.rnd := rfl
@[simp] theorem State.setFb_drawn (s : State) (fb : FrameBuffer) : (s.setFb fb).drawn = s.drawn := rfl
@[simp] theorem State.setFb_inbox (s : State) (fb : FrameBuffer) : (s.setFb fb).inbox = s.inbox := rfl

@[simp] theorem State.push_mem (s : State) (a : Word) (h : s.sp.val < 16) : (s.push a h).mem = s.mem := rfl
@[simp] theorem State.push_v (s : State) (a : Word) (h : s.sp.val < 16) : (s.push a h).v = s.v := rfl
@[simp] theorem State.push_i (s : State) (a : Word) (h : s.sp.val < 16) : (s.push a h).i = s.i := rfl
@[simp] theorem State.push_pc (s : State) (a : Word) (h : s.sp.val < 16) : (s.push a h).pc = s.pc := rfl
@[simp] theorem State.push_stack (s : State) (a : Word) (h : s.sp.val < 16) : (s.push a h).stack = s.stack.set s.sp.val a h := rfl
@[simp] theorem State.push_sp (s : State) (a : Word) (h : s.sp.val < 16) : (s.push a h).sp = ⟨s.sp.val + 1, by omega⟩ := rfl
@[simp] theorem State.push_dt (s : State) (a : Word) (h : s.sp.val < 16) : (s.push a h).dt = s.dt := rfl
@[simp] theorem State.push_st (s : State) (a : Word) (h : s.sp.val < 16) : (s.push a h).st = s.st := rfl
@[simp] theorem State.push_key (s : State) (a : Word) (h : s.sp.val < 16) : (s.push a h).key = s.key := rfl
@[simp] theorem State.push_fb (s : State) (a : Word) (h : s.sp.val < 16) : (s.push a h).fb = s.fb := rfl
@[simp] theorem State.push_redraw (s : State) (a : Word) (h : s.sp.val < 16) : (s.push a h).redraw = s.redraw := rfl
@[simp] theorem State.push_audioDue (s : State) (a : Word) (h : s.sp.val < 16) : (s.push a h).audioDue = s.audioDue := rfl
@[simp] theorem State.push_status (s : State) (a : Word) (h : s.sp.val < 16) : (s.push a h).status = s.status := rfl
@[simp] theorem State.push_fault (s : State) (a : Word) (h : s.sp.val < 16) : (s.push a h).fault = s.fault := rfl
@[simp] theorem State.push_err (s : State) (a : Word) (h : s.sp.val < 16) : (s.push a h).err = s.err := rfl
@[simp] theorem State.push_params (s : State) (a : Word) (h : s.sp.val < 16) : (s.push a h).params = s.params := rfl
@[simp] theorem State.push_rnd (s : State) (a : Word) (h : s.sp.val < 16) : (s.push a h).rnd = s.rnd := rfl
@[simp] theorem State.push_drawn (s : State) (a : Word) (h : s.sp.val < 16) : (s.push a h).drawn = s.drawn := rfl
@[simp] theorem State.push_inbox (s : State) (a : Word) (h : s.sp.val < 16) : (s.push a h).inbox = s.inbox := rfl

@[simp] theorem State.pop_mem (s : State) (h : 0 < s.sp.val) : (s.pop h).mem = s.mem := rfl
@[simp] theorem State.pop_v (s : State) (h : 0 < s.sp.val) : (s.pop h).v = s.v := rfl
@[simp] theorem State.pop_i (s : State) (h : 0 < s.sp.val) : (s.pop h).i = s.i := rfl
@[simp] theorem State.pop_pc (s : State) (h : 0 < s.sp.val) : (s.pop h).pc = s.pc := rfl
@[simp] theorem State.pop_stack (s : State) (h : 0 < s.sp.val) : (s.pop h).stack = s.stack := rfl
@[simp] theorem State.pop_sp (s : State) (h : 0 < s.sp.val) : (s.pop h).sp = ⟨s.sp.val - 1, by omega⟩ := rfl
@[simp] theorem State.pop_dt (s : State) (h : 0 < s.sp.val) : (s.pop h).dt = s.dt := rfl
@[simp] theorem State.pop_st (s : State) (h : 0 < s.sp.val) : (s.pop h).st = s.st := rfl
@[simp] theorem State.pop_key (s : State) (h : 0 < s.sp.val) : (s.pop h).key = s.key := rfl
@[simp] theorem State.pop_fb (s : State) (h : 0 < s.sp.val) : (s.pop h).fb = s.fb := rfl
@[simp] theorem State.pop_redraw (s : State) (h : 0 < s.sp.val) : (s.pop h).redraw = s.redraw := rfl
@[simp] theorem State.pop_audioDue (s : State) (h : 0 < s.sp.val) : (s.pop h).audioDue = s.audioDue := rfl
@[simp] theorem State.pop_status (s : State) (h : 0 < s.sp.val) : (s.pop h).status = s.status := rfl
@[simp] theorem State.pop_fault (s : State) (h : 0 < s.sp.val) : (s.pop h).fault = s.fault := rfl
@[simp] theorem State.pop_err (s : State) (h : 0 < s.sp.val) : (s.pop h).err = s.err := rfl
@[simp] theorem State.pop_params (s : State) (h : 0 < s.sp.val) : (s.pop h).params = s.params := rfl
@[simp] theorem State.pop_rnd (s : State) (h : 0 < s.sp.val) : (s.pop h).rnd = s.rnd := rfl
@[simp] theorem State.pop_drawn (s : State) (h : 0 < s.sp.val) : (s.pop h).drawn = s.drawn := rfl
@[simp] theorem State.pop_inbox (s : State) (h : 0 < s.sp.val) : (s.pop h).inbox = s.inbox := rfl

@[simp] theorem State.raise_mem (s : State) (c : Cause) (w : Word) (a : Nat) : (s.raise c w a).mem = s.mem := rfl
@[simp] theorem State.raise_v (s : State) (c : Cause) (w : Word) (a : Nat) : (s.raise c w a).v = s.v := rfl
@[simp] theorem State.raise_i (s : State) (c : Cause) (w : Word) (a : Nat) : (s.raise c w a).i = s.i := rfl
@[simp] theorem State.raise_pc (s : State) (c : Cause) (w : Word) (a : Nat) : (s.raise c w a).pc = s.pc := rfl
@[simp] theorem State.raise_stack (s : State) (c : Cause) (w : Word) (a : Nat) : (s.raise c w a).stack = s.stack := rfl
@[simp] theorem State.raise_sp (s : State) (c : Cause) (w : Word) (a : Nat) : (s.raise c w a).sp = s.sp := rfl
@[simp] theorem State.raise_dt (s : State) (c : Cause) (w : Word) (a : Nat) : (s.raise c w a).dt = s.dt := rfl
@[simp] theorem State.raise_st (s : State) (c : Cause) (w : Word) (a : Nat) : (s.raise c w a).st = s.st := rfl
@[simp] theorem State.raise_key (s : State) (c : Cause) (w : Word) (a : Nat) : (s.raise c w a).key = s.key := rfl
@[simp] theorem State.raise_fb (s : State) (c : Cause) (w : Word) (a : Nat) : (s.raise c w a).fb = s.fb := rfl
@[simp] theorem State.raise_redraw (s : State) (c : Cause) (w : Word) (a : Nat) : (s.raise c w a).redraw = s.redraw := rfl
@[simp] theorem State.raise_audioDue (s : State) (c : Cause) (w : Word) (a : Nat) : (s.raise c w a).audioDue = s.audioDue := rfl
@[simp] theorem State.raise_status (s : State) (c : Cause) (w : Word) (a : Nat) : (s.raise c w a).status = .halted := rfl
@[simp] theorem State.raise_fault (s : State) (c : Cause) (w : Word) (a : Nat) : (s.raise c w a).fault = { cause := c, pc := s.pc, word := w, addr := a } := rfl
@[simp] theorem State.raise_err (s : State) (c : Cause) (w : Word) (a : Nat) : (s.raise c w a).err = s.err := rfl
@[simp] theorem State.raise_params (s : State) (c : Cause) (w : Word) (a : Nat) : (s.raise c w a).params = s.params := rfl
@[simp] theorem State.raise_rnd (s : State) (c : Cause) (w : Word) (a : Nat) : (s.raise c w a).rnd = s.rnd := rfl
@[simp] theorem State.raise_drawn (s : State) (c : Cause) (w : Word) (a : Nat) : (s.raise c w a).drawn = s.drawn := rfl
@[simp] theorem State.raise_inbox (s : State) (c : Cause) (w : Word) (a : Nat) : (s.raise c w a).inbox = s.inbox := rfl

@[simp] theorem State.setRnd_mem (s : State) (r : Byte) : (s.setRnd r).mem = s.mem := rfl
@[simp] theorem State.setRnd_v (s : State) (r : Byte) : (s.setRnd r).v = s.v := rfl
@[simp] theorem State.setRnd_i (s : State) (r : Byte) : (s.setRnd r).i = s.i := rfl
@[simp] theorem State.setRnd_pc (s : State) (r : Byte) : (s.setRnd r).pc = s.pc := rfl
@[simp] theorem State.setRnd_stack (s : State) (r : Byte) : (s.setRnd r).stack = s.stack := rfl
@[simp] theorem State.setRnd_sp (s : State) (r : Byte) : (s.setRnd r).sp = s.sp := rfl
@[simp] theorem State.setRnd_dt (s : State) (r : Byte) : (s.setRnd r).dt = s.dt := rfl
@[simp] theorem State.setRnd_st (s : State) (r : Byte) : (s.setRnd r).st = s.st := rfl
@[simp] theorem State.setRnd_key (s : State) (r : Byte) : (s.setRnd r).key = s.key := rfl
@[simp] theorem State.setRnd_fb (s : State) (r : Byte) : (s.setRnd r).fb = s.fb := rfl
@[simp] theorem State.setRnd_redraw (s : State) (r : Byte) : (s.setRnd r).redraw = s.redraw := rfl
@[simp] theorem State.setRnd_audioDue (s : State) (r : Byte) : (s.setRnd r).audioDue = s.audioDue := rfl
@[simp] theorem State.setRnd_status (s : State) (r : Byte) : (s.setRnd r).status = s.status := rfl
@[simp] theorem State.setRnd_fault (s : State) (r : Byte) : (s.setRnd r).fault = s.fault := rfl
@[simp] theorem State.setRnd_err (s : State) (r : Byte) : (s.setRnd r).err = s.err := rfl
@[simp] theorem State.setRnd_params (s : State) (r : Byte) : (s.setRnd r).params = s.params := rfl
@[simp] theorem State.setRnd_rnd (s : State) (r : Byte) : (s.setRnd r).rnd = r := rfl
@[simp] theorem State.setRnd_drawn (s : State) (r : Byte) : (s.setRnd r).drawn = s.drawn := rfl
@[simp] theorem State.setRnd_inbox (s : State) (r : Byte) : (s.setRnd r).inbox = s.inbox := rfl

end Sys2Proof.Machine
end

