-- ==== Sys2Proof/Laws/Memory.lean ====
section
/-! SUPPORT. Memory: a read after a write, the canonical form kept, and what the block operations do (R12, R38, R43). -/

namespace Sys2Proof.Machine

@[simp] theorem Memory.read_nil (a : Nat) : Memory.read [] a = resetByte a := rfl

theorem Memory.read_cons (k : Nat) (c : Byte) (m : Memory) (a : Nat) :
    Memory.read ((k, c) :: m) a = if a = k then c else Memory.read m a := rfl

/-- Below the first address a canonical memory lists, every address reads as at construction. -/
theorem Memory.read_of_lt {lo : Nat} {m : Memory} (h : Memory.wfFrom lo m = true) {a : Nat} (ha : a < lo) :
    m.read a = resetByte a := by
  induction m generalizing lo with
  | nil => rfl
  | cons e m ih =>
    obtain ⟨k, c⟩ := e
    simp only [Memory.wfFrom, Bool.and_eq_true, decide_eq_true_eq] at h
    rw [Memory.read_cons, if_neg (by omega)]
    exact ih h.2 (by omega)

/-- A canonical memory is canonical from any lower address. -/
theorem Memory.wfFrom_mono {lo lo' : Nat} {m : Memory} (h : Memory.wfFrom lo m = true) (hl : lo' ≤ lo) :
    Memory.wfFrom lo' m = true := by
  cases m with
  | nil => rfl
  | cons e m =>
    obtain ⟨k, c⟩ := e
    simp only [Memory.wfFrom, Bool.and_eq_true, decide_eq_true_eq] at h ⊢
    exact ⟨⟨⟨by omega, h.1.1.2⟩, h.1.2⟩, h.2⟩

/-- A read after a write to a canonical memory: the byte written, and every other byte as before. -/
theorem Memory.read_write_from {lo : Nat} {m : Memory} (h : Memory.wfFrom lo m = true) (a : Nat) (b : Byte) (a' : Nat) :
    (m.write a b).read a' = if a' = a then b else m.read a' := by
  induction m generalizing lo with
  | nil =>
    unfold Memory.write
    split <;> rename_i hb
    · split <;> rename_i ha
      · subst ha; exact hb.symm
      · rfl
    · rfl
  | cons e m ih =>
    obtain ⟨k, c⟩ := e
    simp only [Memory.wfFrom, Bool.and_eq_true, decide_eq_true_eq] at h
    have ih := ih h.2
    unfold Memory.write
    split
    · rename_i hlt
      split
      · rename_i hb
        split
        · rename_i ha
          subst ha
          rw [Memory.read_cons, if_neg (by omega), Memory.read_of_lt h.2 (by omega), hb]
        · rfl
      · rw [Memory.read_cons]
    · split
      · rename_i hk
        subst hk
        split
        · rename_i hb
          split
          · rename_i ha
            subst ha
            rw [Memory.read_of_lt h.2 (by omega), hb]
          · rename_i ha
            rw [Memory.read_cons, if_neg ha]
        · simp only [Memory.read_cons]
          split <;> rfl
      · rename_i hk
        simp only [Memory.read_cons, ih]
        split
        · rename_i ha
          rw [if_neg (by omega)]
        · rfl

theorem Memory.read_write {m : Memory} (h : m.wf = true) (a : Nat) (b : Byte) (a' : Nat) :
    (m.write a b).read a' = if a' = a then b else m.read a' :=
  Memory.read_write_from h a b a'

/-- A write to an address of memory keeps the canonical form. -/
theorem Memory.wfFrom_write {lo : Nat} {m : Memory} (h : Memory.wfFrom lo m = true) {a : Nat} (hlo : lo ≤ a)
    (ha : a ≤ Config.memTop) (b : Byte) : Memory.wfFrom lo (m.write a b) = true := by
  induction m generalizing lo with
  | nil =>
    unfold Memory.write
    split
    · rfl
    · rename_i hb
      simp [Memory.wfFrom, hlo, ha, hb]
  | cons e m ih =>
    obtain ⟨k, c⟩ := e
    have h' := h
    simp only [Memory.wfFrom, Bool.and_eq_true, decide_eq_true_eq] at h'
    unfold Memory.write
    split
    · rename_i hlt
      split
      · exact h
      · rename_i hb
        simp only [Memory.wfFrom, Bool.and_eq_true, decide_eq_true_eq]
        exact ⟨⟨⟨hlo, ha⟩, by simpa using hb⟩, ⟨⟨⟨by omega, h'.1.1.2⟩, h'.1.2⟩, h'.2⟩⟩
    · split
      · rename_i hk
        subst hk
        split
        · exact Memory.wfFrom_mono h'.2 (by omega)
        · rename_i hb
          simp only [Memory.wfFrom, Bool.and_eq_true, decide_eq_true_eq]
          exact ⟨⟨⟨hlo, ha⟩, by simpa using hb⟩, h'.2⟩
      · rename_i hge hk
        simp only [Memory.wfFrom, Bool.and_eq_true, decide_eq_true_eq]
        exact ⟨h'.1, ih h'.2 (by omega)⟩

theorem Memory.wf_write {m : Memory} (h : m.wf = true) {a : Nat} (ha : a ≤ Config.memTop) (b : Byte) :
    (m.write a b).wf = true :=
  Memory.wfFrom_write h (Nat.zero_le a) ha b

/-- Storing a block inside memory keeps the canonical form. -/
theorem Memory.wf_writeBytes {m : Memory} (h : m.wf = true) {base : Nat} {bs : List Byte}
    (hb : base + bs.length ≤ Config.memTop + 1) : (m.writeBytes base bs).wf = true := by
  induction bs generalizing m base with
  | nil => exact h
  | cons b bs ih =>
    simp only [List.length_cons] at hb
    exact ih (Memory.wf_write h (by omega) b) (by omega)

/-- A read after a block store: the block's byte inside it, and every other byte as before. -/
theorem Memory.read_writeBytes {m : Memory} (h : m.wf = true) {base : Nat} {bs : List Byte}
    (hb : base + bs.length ≤ Config.memTop + 1) (a : Nat) :
    (m.writeBytes base bs).read a =
      if base ≤ a ∧ a < base + bs.length then bs.getD (a - base) 0 else m.read a := by
  induction bs generalizing m base with
  | nil => rw [if_neg (by simp only [List.length_nil]; omega)]; rfl
  | cons b bs ih =>
    simp only [List.length_cons] at hb ⊢
    rw [Memory.writeBytes, ih (Memory.wf_write h (by omega) b) (by omega), Memory.read_write h]
    by_cases h1 : a = base
    · subst h1
      rw [if_neg (by omega), if_pos rfl, if_pos (by omega)]
      simp
    · by_cases h2 : base + 1 ≤ a ∧ a < base + 1 + bs.length
      · obtain ⟨d, hd⟩ : ∃ d, a - base = d + 1 := ⟨a - base - 1, by omega⟩
        rw [if_pos h2, if_pos (by omega), hd, show a - (base + 1) = d by omega]
        simp
      · rw [if_neg h2, if_neg h1, if_neg (by omega)]

@[simp] theorem Memory.length_readBytes (m : Memory) (base count : Nat) :
    (m.readBytes base count).length = count := by
  induction count generalizing base with
  | zero => rfl
  | succ n ih => simp [Memory.readBytes, ih]

/-- The k-th byte of a block read. -/
theorem Memory.getD_readBytes (m : Memory) (base : Nat) {count k : Nat} (hk : k < count) :
    (m.readBytes base count).getD k 0 = m.read (base + k) := by
  induction count generalizing base k with
  | zero => omega
  | succ n ih =>
    cases k with
    | zero => rfl
    | succ k =>
      rw [Memory.readBytes, List.getD_cons_succ, ih (base + 1) (by omega)]
      congr 1
      omega

/-- Canonical memories are equal when every address reads the same: one memory, one list. -/
theorem Memory.eq_of_read {lo : Nat} {m n : Memory} (hm : Memory.wfFrom lo m = true) (hn : Memory.wfFrom lo n = true)
    (h : ∀ a, m.read a = n.read a) : m = n := by
  induction m generalizing lo n with
  | nil =>
    cases n with
    | nil => rfl
    | cons e n =>
      obtain ⟨k, c⟩ := e
      simp only [Memory.wfFrom, Bool.and_eq_true, bne_iff_ne, ne_eq] at hn
      have := h k
      rw [Memory.read_cons, if_pos rfl] at this
      exact absurd this.symm hn.1.2
  | cons e m ih =>
    obtain ⟨k, c⟩ := e
    have hm' := hm
    simp only [Memory.wfFrom, Bool.and_eq_true, decide_eq_true_eq, bne_iff_ne, ne_eq] at hm'
    cases n with
    | nil =>
      have := h k
      rw [Memory.read_cons, if_pos rfl] at this
      exact absurd this hm'.1.2
    | cons e' n =>
      obtain ⟨k', c'⟩ := e'
      have hn' := hn
      simp only [Memory.wfFrom, Bool.and_eq_true, decide_eq_true_eq, bne_iff_ne, ne_eq] at hn'
      have hk : k = k' := by
        rcases Nat.lt_trichotomy k k' with hlt | heq | hgt
        · have := h k
          rw [Memory.read_cons, if_pos rfl, Memory.read_cons, if_neg (by omega),
            Memory.read_of_lt hn'.2 (by omega)] at this
          exact absurd this hm'.1.2
        · exact heq
        · have := h k'
          rw [Memory.read_cons, if_neg (by omega), Memory.read_of_lt hm'.2 (by omega),
            Memory.read_cons, if_pos rfl] at this
          exact absurd this.symm hn'.1.2
      subst hk
      have hc : c = c' := by
        have := h k
        rwa [Memory.read_cons, if_pos rfl, Memory.read_cons, if_pos rfl] at this
      subst hc
      congr 1
      refine ih hm'.2 hn'.2 fun a => ?_
      by_cases ha : a = k
      · subst ha
        rw [Memory.read_of_lt hm'.2 (by omega), Memory.read_of_lt hn'.2 (by omega)]
      · have := h a
        rwa [Memory.read_cons, if_neg ha, Memory.read_cons, if_neg ha] at this

end Sys2Proof.Machine
end

