-- ==== Sys2Proof/Laws/Ops.lean ====
section
/-! SUPPORT. One lemma per shared operation that says once what it does: registers, flags, the bounds check, register
blocks, keys, the framebuffer and sprites. -/

namespace Sys2Proof.Machine

/-- The highest address, as the number it is. -/
theorem memTop_eq : Config.memTop = 0xFFF := rfl

/-! ## Registers and flags -/

/-- A register after a register write (R18: none aliases another). -/
@[simp] theorem State.getV_setV (s : State) (x : Reg) (b : Byte) (k : Reg) :
    (s.setV x b).getV k = if k = x then b else s.getV k := by
  simp only [State.getV, State.setV, Fin.getElem_fin, Vector.getElem_set, Fin.ext_iff, eq_comm]

/-- An update that leaves `v` alone leaves every register alone. -/
theorem State.getV_of_v {s t : State} (h : t.v = s.v) (k : Reg) : t.getV k = s.getV k := by
  simp [State.getV, h]

@[simp] theorem State.getV_goto (s : State) (a : Word) (k : Reg) : (s.goto a).getV k = s.getV k := rfl
@[simp] theorem State.getV_advance (s : State) (k : Reg) : s.advance.getV k = s.getV k := rfl
@[simp] theorem State.getV_skip (s : State) (k : Reg) : s.skip.getV k = s.getV k := rfl
@[simp] theorem State.getV_setFb (s : State) (fb : FrameBuffer) (k : Reg) : (s.setFb fb).getV k = s.getV k := rfl
@[simp] theorem State.getV_setMem (s : State) (m : Memory) (k : Reg) : (s.setMem m).getV k = s.getV k := rfl
@[simp] theorem State.getV_setKey (s : State) (j : Fin 16) (d : Bool) (k : Reg) :
    (s.setKey j d).getV k = s.getV k := rfl
@[simp] theorem State.getV_setI (s : State) (a : Word) (k : Reg) : (s.setI a).getV k = s.getV k := rfl
@[simp] theorem State.getV_setDt (s : State) (b : Byte) (k : Reg) : (s.setDt b).getV k = s.getV k := rfl
@[simp] theorem State.getV_setSt (s : State) (b : Byte) (k : Reg) : (s.setSt b).getV k = s.getV k := rfl
@[simp] theorem State.getV_push (s : State) (a : Word) (h : s.sp.val < 16) (k : Reg) :
    (s.push a h).getV k = s.getV k := rfl
@[simp] theorem State.getV_pop (s : State) (h : 0 < s.sp.val) (k : Reg) : (s.pop h).getV k = s.getV k := rfl
@[simp] theorem State.getV_raise (s : State) (c : Cause) (w : Word) (a : Nat) (k : Reg) :
    (s.raise c w a).getV k = s.getV k := rfl
@[simp] theorem State.getV_setRnd (s : State) (r : Byte) (k : Reg) : (s.setRnd r).getV k = s.getV k := rfl

/-- Result first, flag second (R88): VF holds the flag whatever the destination was. -/
theorem State.getV_setResultFlag (s : State) (x : Reg) (res : Byte) (flag : Bool) (k : Reg) :
    (s.setResultFlag x res flag).getV k =
      if k = Reg.vf then flagByte flag else if k = x then res else s.getV k := by
  simp [State.setResultFlag]

/-- FX65's register file (R109). -/
theorem getElem_loadBlock (v : Vector Byte 16) (m : Memory) (base : Nat) (x k : Reg) :
    (loadBlock v m base x)[k] = if k ≤ x then m.read (base + k.val) else v[k] := by
  simp [loadBlock]

@[simp] theorem length_regBlock (v : Vector Byte 16) (x : Reg) : (regBlock v x).length = x.val + 1 := by
  simp [regBlock]

/-- FX55's block (R108): byte k is register k. -/
theorem getD_regBlock (v : Vector Byte 16) {x k : Reg} (h : k ≤ x) : (regBlock v x).getD k.val 0 = v[k] := by
  have : k.val < x.val + 1 := Nat.lt_succ_of_le h
  simp [regBlock, List.getD_eq_getElem?_getD, this]

/-! ## The bounds check (R41) -/

theorem dataFault?_eq_none {base : Word} {count : Nat} :
    dataFault? base count = none ↔ (count = 0 ∨ base.toNat + count ≤ Config.memTop + 1) := by
  unfold dataFault?
  split <;> simp <;> omega

theorem dataFault?_eq_some {base : Word} {count a : Nat} :
    dataFault? base count = some a ↔
      (0 < count ∧ Config.memTop + 1 < base.toNat + count ∧ a = max base.toNat (Config.memTop + 1)) := by
  unfold dataFault?
  split <;> simp <;> omega

/-! ## Keys (R111, R116) -/

theorem keyOperand?_eq_none {b : Byte} : keyOperand? b = none ↔ 15 < b.toNat := by
  unfold keyOperand?
  split
  · simp; omega
  · simp; omega

theorem keyOperand?_eq_some {b : Byte} {k : Fin 16} : keyOperand? b = some k ↔ b.toNat = k.val := by
  have := k.isLt
  unfold keyOperand?
  split
  · simp [Fin.ext_iff]
  · simp; omega

theorem lowestKeyDown_eq_none {key : Vector Bool 16} : lowestKeyDown key = none ↔ ∀ k : Fin 16, key[k] = false := by
  simp [lowestKeyDown, List.find?_eq_none]

theorem lowestKeyDown_eq_some {key : Vector Bool 16} {k : Fin 16} :
    lowestKeyDown key = some k ↔ (key[k] = true ∧ ∀ j : Fin 16, j < k → key[j] = false) := by
  unfold lowestKeyDown
  rw [List.find?_eq_some_iff_getElem]
  constructor
  · rintro ⟨hk, i, hi, rfl, hlt⟩
    refine ⟨by simpa using hk, fun j hj => ?_⟩
    have hj' : j.val < i := by simpa [Fin.lt_def] using hj
    simpa using hlt j.val hj'
  · rintro ⟨hk, hlt⟩
    refine ⟨by simpa using hk, k.val, by simp, by simp, fun j hj => ?_⟩
    have := hlt ⟨j, by omega⟩ (by simpa [Fin.lt_def] using hj)
    simpa using this

/-! ## The framebuffer and sprites (R28, R69, R71, R72) -/

@[simp] theorem FrameBuffer.cell_clear (x y : Nat) : FrameBuffer.clear.cell x y = false := by
  unfold FrameBuffer.cell FrameBuffer.clear
  split <;> simp

theorem FrameBuffer.cell_off {fb : FrameBuffer} {x y : Nat} (h : ¬ (x < 64 ∧ y < 32)) : fb.cell x y = false := by
  unfold FrameBuffer.cell
  split
  · have : ¬ x < 64 := by omega
    simp [this]
  · rfl

/-- Framebuffers are equal when their cells are. -/
theorem FrameBuffer.eq_of_cell {f g : FrameBuffer} (h : ∀ x y, x < 64 → y < 32 → f.cell x y = g.cell x y) : f = g := by
  refine Vector.ext fun y hy => ?_
  refine BitVec.eq_of_getLsbD_eq fun x hx => ?_
  simpa [FrameBuffer.cell, hx, hy] using h x y hx hy

/-- One cell inverted, the others as they were. -/
theorem FrameBuffer.cell_flip (fb : FrameBuffer) {cx cy : Nat} (hx : cx < 64) (hy : cy < 32) (x y : Nat) :
    (fb.flip cx cy hy).cell x y = (fb.cell x y ^^ (decide (x = cx) && decide (y = cy))) := by
  unfold FrameBuffer.cell FrameBuffer.flip
  by_cases h : y < 32
  · by_cases hxx : x < 64
    · simp only [h, dif_pos, Vector.getElem_set]
      by_cases hc : cy = y
      · subst hc
        by_cases hxc : x = cx
        · subst hxc; simp [hx]
        · have h2 : x < cx ∨ x - cx ≠ 0 := by omega
          rcases h2 with h2 | h2 <;> simp [hxx, hxc, h2]
      · simp [hc, Ne.symm hc, hxx]
    · have : ¬ x = cx := by omega
      simp [h, hxx, this]
  · have : ¬ y = cy := by omega
    simp [h, this]

/-- One pixel (R71, R72): its cell is inverted when the bit is 1 and the cell is on the grid. -/
theorem cell_plotPixel (cx cy : Nat) (bit : Bool) (cv : Canvas) (x y : Nat) :
    (plotPixel cx cy bit cv).fb.cell x y =
      (cv.fb.cell x y ^^ (bit && decide (x = cx) && decide (y = cy) && decide (cx < 64) && decide (cy < 32))) := by
  unfold plotPixel
  split
  · rename_i h
    rw [FrameBuffer.cell_flip _ h.2.1]
    simp [h]
  · rename_i h
    cases bit
    · simp
    · have : (decide (cx < 64) && decide (cy < 32)) = false := by simpa using h
      rw [Bool.and_assoc, this]
      simp

/-- One pixel collides when its bit is 1 and its cell, on the grid, was 1 (R72). -/
theorem collide_plotPixel (cx cy : Nat) (bit : Bool) (cv : Canvas) :
    (plotPixel cx cy bit cv).collide = (cv.collide || (bit && cv.fb.cell cx cy)) := by
  unfold plotPixel
  split
  · rename_i h
    simp [h]
  · rename_i h
    cases bit
    · simp
    · rw [FrameBuffer.cell_off (by simpa using h)]
      simp

/-- One sprite row (R71): each of its pixels inverts its own cell. -/
theorem cell_plotRow (px cy : Nat) (row : Byte) (c left : Nat) (cv : Canvas) (x y : Nat) :
    (plotRow px cy row c left cv).fb.cell x y =
      (cv.fb.cell x y ^^ (decide (px + c ≤ x) && decide (x < px + c + left) && decide (y = cy)
        && decide (x < 64) && decide (cy < 32) && spriteBit row (x - px))) := by
  induction left generalizing c cv with
  | zero =>
    have : ¬ (px + c ≤ x ∧ x < px + c + 0) := by omega
    by_cases h : px + c ≤ x
    · have h2 : ¬ x < px + c := by omega
      simp [plotRow, h2]
    · simp [plotRow, h]
  | succ left ih =>
    rw [plotRow, ih, cell_plotPixel]
    by_cases hx : x = px + c
    · subst hx
      simp only [Nat.add_sub_cancel_left]
      have h1 : ¬ (px + (c + 1) ≤ px + c) := by omega
      simp [h1]
      cases spriteBit row c <;> cases decide (y = cy) <;> cases decide (cy < 32) <;> simp_all
    · by_cases h1 : px + (c + 1) ≤ x
      · have h2 : px + c ≤ x := by omega
        have h3 : (x < px + (c + 1) + left) ↔ (x < px + c + (left + 1)) := by omega
        simp [hx, h1, h2, h3]
      · have h2 : ¬ px + c ≤ x := by omega
        simp [hx, h1, h2]

/-- A row collides when one of its 1 bits is on a cell that was 1: a row touches each cell at most once (R72). -/
theorem collide_plotRow (px cy : Nat) (row : Byte) (c left : Nat) (cv : Canvas) :
    (plotRow px cy row c left cv).collide = true ↔
      (cv.collide = true ∨ ∃ j, c ≤ j ∧ j < c + left ∧ spriteBit row j = true ∧ cv.fb.cell (px + j) cy = true) := by
  induction left generalizing c cv with
  | zero =>
    simp only [plotRow]
    constructor
    · exact .inl
    · rintro (h | ⟨j, h1, h2, -⟩)
      · exact h
      · omega
  | succ left ih =>
    rw [plotRow, ih, collide_plotPixel]
    simp only [Bool.or_eq_true, Bool.and_eq_true, cell_plotPixel]
    constructor
    · rintro ((h | h) | ⟨j, h1, h2, h3, h4⟩)
      · exact .inl h
      · exact .inr ⟨c, le_refl c, by omega, h.1, h.2⟩
      · have hj : ¬ px + j = px + c := by omega
        refine .inr ⟨j, by omega, by omega, h3, ?_⟩
        rwa [decide_eq_false hj, Bool.and_false, Bool.false_and, Bool.false_and, Bool.false_and, Bool.xor_false] at h4
    · rintro (h | ⟨j, h1, h2, h3, h4⟩)
      · exact .inl (.inl h)
      · by_cases hj : j = c
        · subst hj; exact .inl (.inr ⟨h3, h4⟩)
        · have hj' : ¬ px + j = px + c := by omega
          refine .inr ⟨j, by omega, by omega, h3, ?_⟩
          rwa [decide_eq_false hj', Bool.and_false, Bool.false_and, Bool.false_and, Bool.false_and, Bool.xor_false]

/-- The pixel of a sprite whose rows are a list, on the cell (x, y). -/
def rowsOn (px py : Nat) (rows : List Byte) (x y : Nat) : Bool :=
  decide (px ≤ x) && decide (x < px + 8) && decide (py ≤ y) && decide (y < py + rows.length)
    && spriteBit (rows.getD (y - py) 0) (x - px)

/-- A whole sprite (R71): on the grid, the cells under its 1 bits are inverted and no others. -/
theorem cell_plotSprite (px : Nat) (rows : List Byte) (py : Nat) (cv : Canvas) (x y : Nat) :
    (plotSprite px py rows cv).fb.cell x y =
      (cv.fb.cell x y ^^ (rowsOn px py rows x y && decide (x < 64) && decide (y < 32))) := by
  induction rows generalizing py cv with
  | nil =>
    by_cases h : py ≤ y
    · have : ¬ y < py := by omega
      simp [plotSprite, rowsOn, this]
    · simp [plotSprite, rowsOn, h]
  | cons row rows ih =>
    rw [plotSprite, ih, cell_plotRow]
    by_cases hy : y = py
    · subst hy
      have h1 : ¬ (y + 1 ≤ y) := by omega
      simp only [rowsOn, List.length_cons, Nat.sub_self, List.getD_cons_zero, h1, decide_false, Bool.and_false,
        Bool.false_and, Bool.xor_false, Nat.add_zero, decide_true, Bool.and_true, le_refl]
      congr 1
      have : y < y + (rows.length + 1) := by omega
      simp only [this, decide_true, Bool.and_true]
      cases decide (px ≤ x) <;> cases decide (x < px + 8) <;> cases decide (x < 64) <;> cases decide (y < 32) <;> simp
    · by_cases h1 : py + 1 ≤ y
      · obtain ⟨d, hd⟩ : ∃ d, y - py = d + 1 := ⟨y - py - 1, by omega⟩
        have h2 : py ≤ y := by omega
        have h3 : y - (py + 1) = d := by omega
        have h4 : (y < py + 1 + rows.length) ↔ (y < py + (rows.length + 1)) := by omega
        simp [rowsOn, hy, h1, h2, hd, h3, h4]
      · have h2 : ¬ py ≤ y := by omega
        simp [rowsOn, hy, h1, h2]

/-- A sprite collides when one of its 1 bits is on a cell that was 1 (R72). -/
theorem collide_plotSprite (px : Nat) (rows : List Byte) (py : Nat) (cv : Canvas) :
    (plotSprite px py rows cv).collide = true ↔
      (cv.collide = true ∨ ∃ x y, rowsOn px py rows x y = true ∧ cv.fb.cell x y = true) := by
  induction rows generalizing py cv with
  | nil =>
    simp only [plotSprite]
    constructor
    · exact .inl
    · rintro (h | ⟨x, y, h, -⟩)
      · exact h
      · simp [rowsOn] at h
        omega
  | cons row rows ih =>
    rw [plotSprite, ih, collide_plotRow]
    constructor
    · rintro ((h | ⟨j, -, h2, h3, h4⟩) | ⟨x, y, h1, h2⟩)
      · exact .inl h
      · refine .inr ⟨px + j, py, ?_, h4⟩
        have : j < 8 := by omega
        simp [rowsOn, h3, this]
      · have hb := h1
        simp only [rowsOn, Bool.and_eq_true, decide_eq_true_eq] at hb
        obtain ⟨d, hd⟩ : ∃ d, y - py = d + 1 := ⟨y - py - 1, by omega⟩
        refine .inr ⟨x, y, ?_, ?_⟩
        · simp only [rowsOn, Bool.and_eq_true, decide_eq_true_eq, List.length_cons]
          refine ⟨⟨⟨hb.1.1.1, by omega⟩, by omega⟩, ?_⟩
          rw [hd, List.getD_cons_succ, show d = y - (py + 1) by omega]
          exact hb.2
        · rw [cell_plotRow] at h2
          have hy : ¬ y = py := by omega
          simpa [hy] using h2
    · rintro (h | ⟨x, y, h1, h2⟩)
      · exact .inl (.inl h)
      · simp only [rowsOn, Bool.and_eq_true, decide_eq_true_eq, List.length_cons] at h1
        by_cases hy : y = py
        · subst hy
          refine .inl (.inr ⟨x - px, by omega, by omega, by simpa using h1.2, ?_⟩)
          rw [show px + (x - px) = x by omega]
          exact h2
        · obtain ⟨d, hd⟩ : ∃ d, y - py = d + 1 := ⟨y - py - 1, by omega⟩
          refine .inr ⟨x, y, ?_, ?_⟩
          · simp only [rowsOn, Bool.and_eq_true, decide_eq_true_eq]
            refine ⟨⟨⟨h1.1.1.1, by omega⟩, by omega⟩, ?_⟩
            have h5 := h1.2
            rw [hd, List.getD_cons_succ] at h5
            rw [show y - (py + 1) = d by omega]
            exact h5
          · rw [cell_plotRow]
            simpa [hy] using h2

/-- The sprite DXYN draws, as `spriteOn` says it (R68). -/
theorem rowsOn_readBytes (m : Memory) (base px py n x y : Nat) :
    rowsOn px py (m.readBytes base n) x y = spriteOn m base px py n x y := by
  unfold rowsOn spriteOn spriteBit
  rw [Memory.length_readBytes]
  by_cases h : py ≤ y ∧ y < py + n
  · rw [Memory.getD_readBytes m base (by omega)]
  · by_cases h1 : py ≤ y
    · have h2 : ¬ y < py + n := by omega
      simp [h2]
    · simp [h1]

end Sys2Proof.Machine
end

