-- ==== Sys2Proof/Laws/Exec.lean ====
section
/-! SUPPORT. What each shared meaning can do, said once, and the one inversion of `exec`: every instruction answers a next
state, either by its fault (R122, R124) or with the control state kept and memory still canonical. -/

namespace Sys2Proof.Machine

/-- What no instruction writes outside a fault: STATUS, FAULT, ERR, REDRAW, AUDIO_DUE and the model's own fields; and a
canonical memory stays canonical. -/
structure KeepsControl (s t : State) : Prop where
  status   : t.status = s.status
  fault    : t.fault = s.fault
  err      : t.err = s.err
  redraw   : t.redraw = s.redraw
  audioDue : t.audioDue = s.audioDue
  params   : t.params = s.params
  rnd      : t.rnd = s.rnd
  drawn    : t.drawn = s.drawn
  inbox    : t.inbox = s.inbox
  memWf    : s.mem.wf = true → t.mem.wf = true

theorem raise_eq_faulted (s : State) (c : Cause) (w : Word) (a : Nat) : s.raise c w a = faulted s c w a := rfl

/-- A conditional skip moves PC by 4 or by 2 (R77). -/
theorem State.skipIf_eq (s : State) (c : Bool) : s.skipIf c = s.goto (if c then s.pc + 4 else s.pc + 2) := by
  cases c <;> rfl

/-- The one register written, and PC + 2 (R20). -/
theorem writesReg_setV (x : Reg) (b : Byte) (s : State) : WritesReg x b s (s.setV x b).advance := by
  refine ⟨by simp, rfl, fun k hk => by simp [hk], fun p hp => ?_⟩
  cases p <;> first | rfl | (intro _; rfl) | simp at hp

/-- The result and the flag written, in that order, and PC + 2 (R88). -/
theorem writesRegFlag_setResultFlag (x : Reg) (res : Byte) (flag : Bool) (s : State) :
    WritesRegFlag x res.toNat (flagByte flag).toNat s (s.setResultFlag x res flag).advance := by
  refine ⟨by simp [State.getV_setResultFlag], fun h => by simp [State.getV_setResultFlag, h], rfl,
    fun k h1 h2 => by simp [State.getV_setResultFlag, h1, h2], fun p hp => ?_⟩
  cases p <;> first | rfl | (intro _; rfl) | simp at hp

/-- A store at I (R41): out of bounds, the fault with nothing stored; else the bytes stored and PC + 2. -/
theorem storeAtI_cases (w : Word) (bs : List Byte) (s : State) :
    (∃ a, dataFault? s.i bs.length = some a ∧ storeAtI w bs s = .next (s.raise .dataBounds w a))
    ∨ (dataFault? s.i bs.length = none
        ∧ storeAtI w bs s = .next (s.setMem (s.mem.writeBytes s.i.toNat bs)).advance) := by
  unfold storeAtI
  split
  · rename_i a h; exact .inl ⟨a, h, rfl⟩
  · rename_i h; exact .inr ⟨h, rfl⟩

/-- A key skip (R111 to R114): no such key, the fault with nothing cleared; else the skip on the key's level. -/
theorem skipOnKey_cases (w : Word) (b : Byte) (wanted : Bool) (s : State) :
    (keyOperand? b = none ∧ skipOnKey w b wanted s = .next (s.raise .keyIndex w b.toNat))
    ∨ (∃ k, keyOperand? b = some k
        ∧ skipOnKey w b wanted s = .next ((s.afterKeyRead k).skipIf (s.key[k] == wanted))) := by
  unfold skipOnKey
  split
  · rename_i h; exact .inl ⟨h, rfl⟩
  · rename_i k h; exact .inr ⟨k, h, rfl⟩

theorem KeepsControl.trans {s t u : State} (h : KeepsControl s t) (k : KeepsControl t u) : KeepsControl s u :=
  ⟨k.status.trans h.status, k.fault.trans h.fault, k.err.trans h.err, k.redraw.trans h.redraw,
    k.audioDue.trans h.audioDue, k.params.trans h.params, k.rnd.trans h.rnd, k.drawn.trans h.drawn,
    k.inbox.trans h.inbox, fun w => k.memWf (h.memWf w)⟩

theorem KeepsControl.refl (s : State) : KeepsControl s s := ⟨rfl, rfl, rfl, rfl, rfl, rfl, rfl, rfl, rfl, id⟩

theorem keepsControl_goto (s : State) (a : Word) : KeepsControl s (s.goto a) :=
  ⟨rfl, rfl, rfl, rfl, rfl, rfl, rfl, rfl, rfl, id⟩

theorem keepsControl_advance (s : State) : KeepsControl s s.advance := keepsControl_goto s _

theorem keepsControl_setV (s : State) (x : Reg) (b : Byte) : KeepsControl s (s.setV x b) :=
  ⟨rfl, rfl, rfl, rfl, rfl, rfl, rfl, rfl, rfl, id⟩

theorem keepsControl_regs (s : State) (v : Vector Byte 16) : KeepsControl s { s with v := v } :=
  ⟨rfl, rfl, rfl, rfl, rfl, rfl, rfl, rfl, rfl, id⟩

theorem keepsControl_setI (s : State) (a : Word) : KeepsControl s (s.setI a) :=
  ⟨rfl, rfl, rfl, rfl, rfl, rfl, rfl, rfl, rfl, id⟩

theorem keepsControl_setDt (s : State) (b : Byte) : KeepsControl s (s.setDt b) :=
  ⟨rfl, rfl, rfl, rfl, rfl, rfl, rfl, rfl, rfl, id⟩

theorem keepsControl_setSt (s : State) (b : Byte) : KeepsControl s (s.setSt b) :=
  ⟨rfl, rfl, rfl, rfl, rfl, rfl, rfl, rfl, rfl, id⟩

theorem keepsControl_setFb (s : State) (fb : FrameBuffer) : KeepsControl s (s.setFb fb) :=
  ⟨rfl, rfl, rfl, rfl, rfl, rfl, rfl, rfl, rfl, id⟩

theorem keepsControl_setKey (s : State) (k : Fin 16) (d : Bool) : KeepsControl s (s.setKey k d) :=
  ⟨rfl, rfl, rfl, rfl, rfl, rfl, rfl, rfl, rfl, id⟩

theorem keepsControl_push (s : State) (a : Word) (h : s.sp.val < 16) : KeepsControl s (s.push a h) :=
  ⟨rfl, rfl, rfl, rfl, rfl, rfl, rfl, rfl, rfl, id⟩

theorem keepsControl_pop (s : State) (h : 0 < s.sp.val) : KeepsControl s (s.pop h) :=
  ⟨rfl, rfl, rfl, rfl, rfl, rfl, rfl, rfl, rfl, id⟩

theorem keepsControl_skipIf (s : State) (c : Bool) : KeepsControl s (s.skipIf c) := by
  rw [State.skipIf_eq]; exact keepsControl_goto s _

theorem keepsControl_afterKeyRead (s : State) (k : Fin 16) : KeepsControl s (s.afterKeyRead k) := by
  unfold State.afterKeyRead
  split
  · exact keepsControl_setKey s k _
  · exact .refl s

theorem keepsControl_store (bs : List Byte) (s : State) (h : dataFault? s.i bs.length = none) :
    KeepsControl s (s.setMem (s.mem.writeBytes s.i.toNat bs)) := by
  refine ⟨rfl, rfl, rfl, rfl, rfl, rfl, rfl, rfl, rfl, fun hw => ?_⟩
  rcases dataFault?_eq_none.mp h with h0 | h1
  · rw [List.length_eq_zero_iff.mp h0]; exact hw
  · exact Memory.wf_writeBytes hw h1

theorem keepsControl_writeReg (x : Reg) (b : Byte) (s : State) : KeepsControl s (s.setV x b).advance :=
  (keepsControl_setV s x b).trans (keepsControl_advance _)

theorem keepsControl_writeRegFlag (x : Reg) (b : Byte) (f : Bool) (s : State) :
    KeepsControl s (s.setResultFlag x b f).advance :=
  ((keepsControl_setV s x b).trans (keepsControl_setV _ _ _)).trans (keepsControl_advance _)

theorem keepsControl_writeI (a : Word) (s : State) : KeepsControl s (s.setI a).advance :=
  (keepsControl_setI s a).trans (keepsControl_advance _)

/-- The inversion of `exec`: the instruction's one fault kind with its own word (R122, R124), or a next state that keeps
the control state. -/
theorem exec_cases (i : Instr) (s : State) :
    (∃ c a, faultKind i = some c ∧ exec i s = .next (s.raise c (encode i) a))
    ∨ (∃ t, exec i s = .next t ∧ KeepsControl s t) := by
  cases i with
  | cls => exact .inr ⟨_, rfl, (keepsControl_setFb s _).trans (keepsControl_advance _)⟩
  | ret =>
    by_cases h : 0 < s.sp.val
    · exact .inr ⟨_, dif_pos h, (keepsControl_pop s h).trans (keepsControl_goto _ _)⟩
    · exact .inl ⟨.stackUnderflow, 0, rfl, dif_neg h⟩
  | call nnn =>
    by_cases h : s.sp.val < 16
    · exact .inr ⟨_, dif_pos h, (keepsControl_push s _ h).trans (keepsControl_goto _ _)⟩
    · exact .inl ⟨.stackOverflow, 0, rfl, dif_neg h⟩
  | drw x y n =>
    simp only [exec, execDrw]
    split
    · rename_i a _; exact .inl ⟨.dataBounds, a, rfl, rfl⟩
    · exact .inr ⟨_, rfl, ((keepsControl_setFb s _).trans (keepsControl_setV _ _ _)).trans (keepsControl_advance _)⟩
  | loadRegs x =>
    simp only [exec, execLoadRegs]
    split
    · rename_i a _; exact .inl ⟨.dataBounds, a, rfl, rfl⟩
    · exact .inr ⟨_, rfl, (keepsControl_regs s _).trans (keepsControl_advance _)⟩
  | ldB x =>
    rcases storeAtI_cases (encode (.ldB x)) (decimalDigits (s.getV x)) s with ⟨a, -, h⟩ | ⟨h0, h⟩
    · exact .inl ⟨.dataBounds, a, rfl, h⟩
    · exact .inr ⟨_, h, (keepsControl_store _ s h0).trans (keepsControl_advance _)⟩
  | storeRegs x =>
    rcases storeAtI_cases (encode (.storeRegs x)) (regBlock s.v x) s with ⟨a, -, h⟩ | ⟨h0, h⟩
    · exact .inl ⟨.dataBounds, a, rfl, h⟩
    · exact .inr ⟨_, h, (keepsControl_store _ s h0).trans (keepsControl_advance _)⟩
  | skp x =>
    rcases skipOnKey_cases (encode (.skp x)) (s.getV x) true s with ⟨-, h⟩ | ⟨k, -, h⟩
    · exact .inl ⟨.keyIndex, _, rfl, h⟩
    · exact .inr ⟨_, h, (keepsControl_afterKeyRead s k).trans (keepsControl_skipIf _ _)⟩
  | sknp x =>
    rcases skipOnKey_cases (encode (.sknp x)) (s.getV x) false s with ⟨-, h⟩ | ⟨k, -, h⟩
    · exact .inl ⟨.keyIndex, _, rfl, h⟩
    · exact .inr ⟨_, h, (keepsControl_afterKeyRead s k).trans (keepsControl_skipIf _ _)⟩
  | ldVxK x =>
    simp only [exec, execLdVxK]
    split
    · exact .inr ⟨_, rfl, keepsControl_writeReg x _ s⟩
    · exact .inr ⟨_, rfl, .refl s⟩
  | seByte x nn => exact .inr ⟨_, rfl, keepsControl_skipIf s _⟩
  | sneByte x nn => exact .inr ⟨_, rfl, keepsControl_skipIf s _⟩
  | seReg x y => exact .inr ⟨_, rfl, keepsControl_skipIf s _⟩
  | sneReg x y => exact .inr ⟨_, rfl, keepsControl_skipIf s _⟩
  | jp nnn => exact .inr ⟨_, rfl, keepsControl_goto s _⟩
  | jpV0 nnn => exact .inr ⟨_, rfl, keepsControl_goto s _⟩
  | ldI nnn => exact .inr ⟨_, rfl, keepsControl_writeI _ s⟩
  | addI x => exact .inr ⟨_, rfl, keepsControl_writeI _ s⟩
  | ldF x => exact .inr ⟨_, rfl, keepsControl_writeI _ s⟩
  | ldDtVx x => exact .inr ⟨_, rfl, (keepsControl_setDt s _).trans (keepsControl_advance _)⟩
  | ldStVx x => exact .inr ⟨_, rfl, (keepsControl_setSt s _).trans (keepsControl_advance _)⟩
  | ldByte x _ | addByte x _ | ldReg x _ | orReg x _ | andReg x _ | xorReg x _ | rnd x _ | ldVxDt x =>
    exact .inr ⟨_, rfl, keepsControl_writeReg x _ s⟩
  | addReg x _ | subReg x _ | shrReg x _ | subnReg x _ | shlReg x _ =>
    exact .inr ⟨_, rfl, keepsControl_writeRegFlag x _ _ s⟩

end Sys2Proof.Machine
end

