-- ==== Sys2Proof/Laws/PerInstr.lean ====
section
/-! SUPPORT. Per instruction: it is well-formed, and its word lies in a row of the opcode map that builds the instruction
again from the word's fields (rules R55 to R57). -/

namespace Sys2Proof.Laws

/-- The instruction is well-formed, and some row of the opcode map matches its word and rebuilds it. -/
def OpcodeRow.Statement (i : Instr) : Prop :=
  i.wellFormed = true ∧ ∃ r ∈ encodingTable, rowMatches r (encode i) = true ∧ r.build (fieldsOf (encode i)) = i

theorem OpcodeRow.cls : OpcodeRow.Statement .cls := by
  refine ⟨rfl, ⟨0x00E0, 0xFFFF, fun _ => .cls⟩, by simp [encodingTable], ?_, ?_⟩
  · decide
  · rfl
theorem OpcodeRow.ret : OpcodeRow.Statement .ret := by
  refine ⟨rfl, ⟨0x00EE, 0xFFFF, fun _ => .ret⟩, by simp [encodingTable], ?_, ?_⟩
  · decide
  · rfl
theorem OpcodeRow.jp (nnn : Addr) : OpcodeRow.Statement (.jp nnn) := by
  refine ⟨rfl, ⟨0x1000, 0xF000, fun f => .jp f.nnn⟩, by simp [encodingTable], ?_, ?_⟩
  · simp only [rowMatches, encode, encodeA_mask]; decide
  · simp only [encode, fieldsOf_encodeA]
theorem OpcodeRow.call (nnn : Addr) : OpcodeRow.Statement (.call nnn) := by
  refine ⟨rfl, ⟨0x2000, 0xF000, fun f => .call f.nnn⟩, by simp [encodingTable], ?_, ?_⟩
  · simp only [rowMatches, encode, encodeA_mask]; decide
  · simp only [encode, fieldsOf_encodeA]
theorem OpcodeRow.seByte (x : Reg) (nn : Byte) : OpcodeRow.Statement (.seByte x nn) := by
  refine ⟨rfl, ⟨0x3000, 0xF000, fun f => .seByte (regOf f.x) f.nn⟩, by simp [encodingTable], ?_, ?_⟩
  · simp only [rowMatches, encode, encodeXNN_mask]; decide
  · simp only [encode, (fieldsOf_encodeXNN _ _ _).1, (fieldsOf_encodeXNN _ _ _).2, regOf_regField]
theorem OpcodeRow.sneByte (x : Reg) (nn : Byte) : OpcodeRow.Statement (.sneByte x nn) := by
  refine ⟨rfl, ⟨0x4000, 0xF000, fun f => .sneByte (regOf f.x) f.nn⟩, by simp [encodingTable], ?_, ?_⟩
  · simp only [rowMatches, encode, encodeXNN_mask]; decide
  · simp only [encode, (fieldsOf_encodeXNN _ _ _).1, (fieldsOf_encodeXNN _ _ _).2, regOf_regField]
theorem OpcodeRow.seReg (x : Reg) (y : Reg) : OpcodeRow.Statement (.seReg x y) := by
  refine ⟨rfl, ⟨0x5000, 0xF00F, fun f => .seReg (regOf f.x) (regOf f.y)⟩, by simp [encodingTable], ?_, ?_⟩
  · simp only [rowMatches, encode, encodeXYN_mask]; decide
  · simp only [encode, (fieldsOf_encodeXYN _ _ _ _).1, (fieldsOf_encodeXYN _ _ _ _).2.1, regOf_regField]
theorem OpcodeRow.ldByte (x : Reg) (nn : Byte) : OpcodeRow.Statement (.ldByte x nn) := by
  refine ⟨rfl, ⟨0x6000, 0xF000, fun f => .ldByte (regOf f.x) f.nn⟩, by simp [encodingTable], ?_, ?_⟩
  · simp only [rowMatches, encode, encodeXNN_mask]; decide
  · simp only [encode, (fieldsOf_encodeXNN _ _ _).1, (fieldsOf_encodeXNN _ _ _).2, regOf_regField]
theorem OpcodeRow.addByte (x : Reg) (nn : Byte) : OpcodeRow.Statement (.addByte x nn) := by
  refine ⟨rfl, ⟨0x7000, 0xF000, fun f => .addByte (regOf f.x) f.nn⟩, by simp [encodingTable], ?_, ?_⟩
  · simp only [rowMatches, encode, encodeXNN_mask]; decide
  · simp only [encode, (fieldsOf_encodeXNN _ _ _).1, (fieldsOf_encodeXNN _ _ _).2, regOf_regField]
theorem OpcodeRow.ldReg (x : Reg) (y : Reg) : OpcodeRow.Statement (.ldReg x y) := by
  refine ⟨rfl, ⟨0x8000, 0xF00F, fun f => .ldReg (regOf f.x) (regOf f.y)⟩, by simp [encodingTable], ?_, ?_⟩
  · simp only [rowMatches, encode, encodeXYN_mask]; decide
  · simp only [encode, (fieldsOf_encodeXYN _ _ _ _).1, (fieldsOf_encodeXYN _ _ _ _).2.1, regOf_regField]
theorem OpcodeRow.orReg (x : Reg) (y : Reg) : OpcodeRow.Statement (.orReg x y) := by
  refine ⟨rfl, ⟨0x8001, 0xF00F, fun f => .orReg (regOf f.x) (regOf f.y)⟩, by simp [encodingTable], ?_, ?_⟩
  · simp only [rowMatches, encode, encodeXYN_mask]; decide
  · simp only [encode, (fieldsOf_encodeXYN _ _ _ _).1, (fieldsOf_encodeXYN _ _ _ _).2.1, regOf_regField]
theorem OpcodeRow.andReg (x : Reg) (y : Reg) : OpcodeRow.Statement (.andReg x y) := by
  refine ⟨rfl, ⟨0x8002, 0xF00F, fun f => .andReg (regOf f.x) (regOf f.y)⟩, by simp [encodingTable], ?_, ?_⟩
  · simp only [rowMatches, encode, encodeXYN_mask]; decide
  · simp only [encode, (fieldsOf_encodeXYN _ _ _ _).1, (fieldsOf_encodeXYN _ _ _ _).2.1, regOf_regField]
theorem OpcodeRow.xorReg (x : Reg) (y : Reg) : OpcodeRow.Statement (.xorReg x y) := by
  refine ⟨rfl, ⟨0x8003, 0xF00F, fun f => .xorReg (regOf f.x) (regOf f.y)⟩, by simp [encodingTable], ?_, ?_⟩
  · simp only [rowMatches, encode, encodeXYN_mask]; decide
  · simp only [encode, (fieldsOf_encodeXYN _ _ _ _).1, (fieldsOf_encodeXYN _ _ _ _).2.1, regOf_regField]
theorem OpcodeRow.addReg (x : Reg) (y : Reg) : OpcodeRow.Statement (.addReg x y) := by
  refine ⟨rfl, ⟨0x8004, 0xF00F, fun f => .addReg (regOf f.x) (regOf f.y)⟩, by simp [encodingTable], ?_, ?_⟩
  · simp only [rowMatches, encode, encodeXYN_mask]; decide
  · simp only [encode, (fieldsOf_encodeXYN _ _ _ _).1, (fieldsOf_encodeXYN _ _ _ _).2.1, regOf_regField]
theorem OpcodeRow.subReg (x : Reg) (y : Reg) : OpcodeRow.Statement (.subReg x y) := by
  refine ⟨rfl, ⟨0x8005, 0xF00F, fun f => .subReg (regOf f.x) (regOf f.y)⟩, by simp [encodingTable], ?_, ?_⟩
  · simp only [rowMatches, encode, encodeXYN_mask]; decide
  · simp only [encode, (fieldsOf_encodeXYN _ _ _ _).1, (fieldsOf_encodeXYN _ _ _ _).2.1, regOf_regField]
theorem OpcodeRow.shrReg (x : Reg) (y : Reg) : OpcodeRow.Statement (.shrReg x y) := by
  refine ⟨rfl, ⟨0x8006, 0xF00F, fun f => .shrReg (regOf f.x) (regOf f.y)⟩, by simp [encodingTable], ?_, ?_⟩
  · simp only [rowMatches, encode, encodeXYN_mask]; decide
  · simp only [encode, (fieldsOf_encodeXYN _ _ _ _).1, (fieldsOf_encodeXYN _ _ _ _).2.1, regOf_regField]
theorem OpcodeRow.subnReg (x : Reg) (y : Reg) : OpcodeRow.Statement (.subnReg x y) := by
  refine ⟨rfl, ⟨0x8007, 0xF00F, fun f => .subnReg (regOf f.x) (regOf f.y)⟩, by simp [encodingTable], ?_, ?_⟩
  · simp only [rowMatches, encode, encodeXYN_mask]; decide
  · simp only [encode, (fieldsOf_encodeXYN _ _ _ _).1, (fieldsOf_encodeXYN _ _ _ _).2.1, regOf_regField]
theorem OpcodeRow.shlReg (x : Reg) (y : Reg) : OpcodeRow.Statement (.shlReg x y) := by
  refine ⟨rfl, ⟨0x800E, 0xF00F, fun f => .shlReg (regOf f.x) (regOf f.y)⟩, by simp [encodingTable], ?_, ?_⟩
  · simp only [rowMatches, encode, encodeXYN_mask]; decide
  · simp only [encode, (fieldsOf_encodeXYN _ _ _ _).1, (fieldsOf_encodeXYN _ _ _ _).2.1, regOf_regField]
theorem OpcodeRow.sneReg (x : Reg) (y : Reg) : OpcodeRow.Statement (.sneReg x y) := by
  refine ⟨rfl, ⟨0x9000, 0xF00F, fun f => .sneReg (regOf f.x) (regOf f.y)⟩, by simp [encodingTable], ?_, ?_⟩
  · simp only [rowMatches, encode, encodeXYN_mask]; decide
  · simp only [encode, (fieldsOf_encodeXYN _ _ _ _).1, (fieldsOf_encodeXYN _ _ _ _).2.1, regOf_regField]
theorem OpcodeRow.ldI (nnn : Addr) : OpcodeRow.Statement (.ldI nnn) := by
  refine ⟨rfl, ⟨0xA000, 0xF000, fun f => .ldI f.nnn⟩, by simp [encodingTable], ?_, ?_⟩
  · simp only [rowMatches, encode, encodeA_mask]; decide
  · simp only [encode, fieldsOf_encodeA]
theorem OpcodeRow.jpV0 (nnn : Addr) : OpcodeRow.Statement (.jpV0 nnn) := by
  refine ⟨rfl, ⟨0xB000, 0xF000, fun f => .jpV0 f.nnn⟩, by simp [encodingTable], ?_, ?_⟩
  · simp only [rowMatches, encode, encodeA_mask]; decide
  · simp only [encode, fieldsOf_encodeA]
theorem OpcodeRow.rnd (x : Reg) (nn : Byte) : OpcodeRow.Statement (.rnd x nn) := by
  refine ⟨rfl, ⟨0xC000, 0xF000, fun f => .rnd (regOf f.x) f.nn⟩, by simp [encodingTable], ?_, ?_⟩
  · simp only [rowMatches, encode, encodeXNN_mask]; decide
  · simp only [encode, (fieldsOf_encodeXNN _ _ _).1, (fieldsOf_encodeXNN _ _ _).2, regOf_regField]
theorem OpcodeRow.drw (x : Reg) (y : Reg) (n : Nibble) : OpcodeRow.Statement (.drw x y n) := by
  refine ⟨rfl, ⟨0xD000, 0xF000, fun f => .drw (regOf f.x) (regOf f.y) f.n⟩, by simp [encodingTable], ?_, ?_⟩
  · simp only [rowMatches, encode, encodeXYN_mask_family]; decide
  · simp only [encode, (fieldsOf_encodeXYN _ _ _ _).1, (fieldsOf_encodeXYN _ _ _ _).2.1, (fieldsOf_encodeXYN _ _ _ _).2.2, regOf_regField]
theorem OpcodeRow.skp (x : Reg) : OpcodeRow.Statement (.skp x) := by
  refine ⟨rfl, ⟨0xE09E, 0xF0FF, fun f => .skp (regOf f.x)⟩, by simp [encodingTable], ?_, ?_⟩
  · simp only [rowMatches, encode, encodeX_mask]; decide
  · simp only [encode, fieldsOf_encodeX, regOf_regField]
theorem OpcodeRow.sknp (x : Reg) : OpcodeRow.Statement (.sknp x) := by
  refine ⟨rfl, ⟨0xE0A1, 0xF0FF, fun f => .sknp (regOf f.x)⟩, by simp [encodingTable], ?_, ?_⟩
  · simp only [rowMatches, encode, encodeX_mask]; decide
  · simp only [encode, fieldsOf_encodeX, regOf_regField]
theorem OpcodeRow.ldVxDt (x : Reg) : OpcodeRow.Statement (.ldVxDt x) := by
  refine ⟨rfl, ⟨0xF007, 0xF0FF, fun f => .ldVxDt (regOf f.x)⟩, by simp [encodingTable], ?_, ?_⟩
  · simp only [rowMatches, encode, encodeX_mask]; decide
  · simp only [encode, fieldsOf_encodeX, regOf_regField]
theorem OpcodeRow.ldVxK (x : Reg) : OpcodeRow.Statement (.ldVxK x) := by
  refine ⟨rfl, ⟨0xF00A, 0xF0FF, fun f => .ldVxK (regOf f.x)⟩, by simp [encodingTable], ?_, ?_⟩
  · simp only [rowMatches, encode, encodeX_mask]; decide
  · simp only [encode, fieldsOf_encodeX, regOf_regField]
theorem OpcodeRow.ldDtVx (x : Reg) : OpcodeRow.Statement (.ldDtVx x) := by
  refine ⟨rfl, ⟨0xF015, 0xF0FF, fun f => .ldDtVx (regOf f.x)⟩, by simp [encodingTable], ?_, ?_⟩
  · simp only [rowMatches, encode, encodeX_mask]; decide
  · simp only [encode, fieldsOf_encodeX, regOf_regField]
theorem OpcodeRow.ldStVx (x : Reg) : OpcodeRow.Statement (.ldStVx x) := by
  refine ⟨rfl, ⟨0xF018, 0xF0FF, fun f => .ldStVx (regOf f.x)⟩, by simp [encodingTable], ?_, ?_⟩
  · simp only [rowMatches, encode, encodeX_mask]; decide
  · simp only [encode, fieldsOf_encodeX, regOf_regField]
theorem OpcodeRow.addI (x : Reg) : OpcodeRow.Statement (.addI x) := by
  refine ⟨rfl, ⟨0xF01E, 0xF0FF, fun f => .addI (regOf f.x)⟩, by simp [encodingTable], ?_, ?_⟩
  · simp only [rowMatches, encode, encodeX_mask]; decide
  · simp only [encode, fieldsOf_encodeX, regOf_regField]
theorem OpcodeRow.ldF (x : Reg) : OpcodeRow.Statement (.ldF x) := by
  refine ⟨rfl, ⟨0xF029, 0xF0FF, fun f => .ldF (regOf f.x)⟩, by simp [encodingTable], ?_, ?_⟩
  · simp only [rowMatches, encode, encodeX_mask]; decide
  · simp only [encode, fieldsOf_encodeX, regOf_regField]
theorem OpcodeRow.ldB (x : Reg) : OpcodeRow.Statement (.ldB x) := by
  refine ⟨rfl, ⟨0xF033, 0xF0FF, fun f => .ldB (regOf f.x)⟩, by simp [encodingTable], ?_, ?_⟩
  · simp only [rowMatches, encode, encodeX_mask]; decide
  · simp only [encode, fieldsOf_encodeX, regOf_regField]
theorem OpcodeRow.storeRegs (x : Reg) : OpcodeRow.Statement (.storeRegs x) := by
  refine ⟨rfl, ⟨0xF055, 0xF0FF, fun f => .storeRegs (regOf f.x)⟩, by simp [encodingTable], ?_, ?_⟩
  · simp only [rowMatches, encode, encodeX_mask]; decide
  · simp only [encode, fieldsOf_encodeX, regOf_regField]
theorem OpcodeRow.loadRegs (x : Reg) : OpcodeRow.Statement (.loadRegs x) := by
  refine ⟨rfl, ⟨0xF065, 0xF0FF, fun f => .loadRegs (regOf f.x)⟩, by simp [encodingTable], ?_, ?_⟩
  · simp only [rowMatches, encode, encodeX_mask]; decide
  · simp only [encode, fieldsOf_encodeX, regOf_regField]

end Sys2Proof.Laws
end

