-- ==== Sys2Proof/Laws/Step.lean ====
section
/-! SUPPORT. What a cycle and a step can do, said once (rules R60, R63, R67, R122). -/

namespace Sys2Proof.Machine

/-- A running core runs the instruction it decoded: its fault, or its next state completed by REDRAW and ERR. -/
theorem runInstr_cases (i : Instr) (r : Byte) (s : State) :
    (∃ c a, faultKind i = some c ∧ runInstr i r s = .next ((complete i (s.raise c (encode i) a)).setRnd s.rnd))
    ∨ (∃ t, exec i (s.setRnd r) = .next t ∧ KeepsControl (s.setRnd r) t
        ∧ runInstr i r s = .next ((complete i t).setRnd s.rnd)) := by
  rcases exec_cases i (s.setRnd r) with ⟨c, a, hk, h⟩ | ⟨t, h, hc⟩
  · exact .inl ⟨c, a, hk, by rw [runInstr, h]; rfl⟩
  · exact .inr ⟨t, h, hc, by rw [runInstr, h]; rfl⟩

/-- The four outcomes of a cycle (R63). -/
theorem cycle_cases (r : Byte) (s : State) :
    (s.status ≠ .running ∧ cycle r s = .next s)
    ∨ (s.status = .running ∧ ∃ a, fetch s = .error a ∧ cycle r s = .next (s.raise .fetchBounds 0 a))
    ∨ (s.status = .running ∧ ∃ w e, fetch s = .ok w ∧ decodeWord w = .error e ∧ cycle r s = .next (unknownWord w s))
    ∨ (s.status = .running ∧ ∃ w i, fetch s = .ok w ∧ decodeWord w = .ok i ∧ cycle r s = runInstr i r s) := by
  rw [cycle]
  split
  · rename_i h; exact .inl ⟨by simp [h], rfl⟩
  · rename_i h; exact .inl ⟨by simp [h], rfl⟩
  · rename_i h
    refine .inr ?_
    split
    · rename_i a hf; exact .inl ⟨h, a, hf, rfl⟩
    · rename_i w hf
      refine .inr ?_
      split
      · rename_i e he; exact .inl ⟨h, w, e, hf, he, rfl⟩
      · rename_i i hi; exact .inr ⟨h, w, i, hf, hi, rfl⟩

theorem fetch_eq_ok {s : State} (h : s.pc.toNat + 1 ≤ Config.memTop) : fetch s = .ok (s.mem.readWord s.pc.toNat) := by
  rw [fetch, if_pos h]

theorem fetch_eq_error {s : State} (h : Config.memTop < s.pc.toNat + 1) :
    fetch s = .error (max s.pc.toNat (Config.memTop + 1)) := by
  rw [fetch, if_neg (by omega)]

/-- A core that does not run is left alone by a Cycle (R31, R123). -/
theorem cycle_of_not_running {r : Byte} {s : State} (h : s.status ≠ .running) : cycle r s = .next s := by
  rcases cycle_cases r s with ⟨-, h'⟩ | ⟨h', -⟩ | ⟨h', -⟩ | ⟨h', -⟩
  · exact h'
  all_goals exact absurd h' h

theorem tick_of_not_running {s : State} (h : s.status ≠ .running) : tick s = s := by
  unfold tick
  split <;> simp_all

theorem tick_of_running {s : State} (h : s.status = .running) :
    tick s = { s with dt := countDown s.dt, st := countDown s.st, audioDue := s.audioDue || s.st == 1 } := by
  unfold tick
  rw [h]

theorem step_of_inbox {s : State} {t : Transaction} {rest : List Transaction} (h : s.inbox = t :: rest) :
    step s = applyTransaction t { s with inbox := rest } := by
  rw [step, h]

theorem step_of_empty_inbox {s : State} (h : s.inbox = []) : step s = freeCycle s := by
  rw [step, h]

theorem complete_of_running {i : Instr} {s : State} (h : s.status = .running) :
    complete i s = { s with redraw := isDrawing i, err := .noReport } := by
  unfold complete
  rw [h]

theorem complete_of_halted {i : Instr} {s : State} (h : s.status = .halted) : complete i s = s := by
  unfold complete
  rw [h]

/-- The next instruction fetched after a step of the PC's own bytes: the bytes as they stand in memory (R40, R51). -/
theorem readWord_eq (m : Memory) (a : Nat) : m.readWord a = m.read a ++ m.read (a + 1) := rfl

end Sys2Proof.Machine
end

