-- ==== Sys2Proof/Tests/Slice0.lean ====
section
/-! SUPPORT. Tests of one step each, on small states, whose expected results are the spec's own vectors (95_test_vectors.md,
named L2-…) and examples; the decoding of one word for every constructor, written out from the spec's encodings; and,
for every statement with hypotheses, a witness that meets them, at the boundary of each clause. -/

namespace Sys2Proof.Tests

open Sys2Proof.Machine

/-! ## Helpers -/

/-- The next state of a result; `d` where there is none. -/
def nextOr (d : State) : Result → State
  | .next t => t
  | .fault _ | .refused _ => d

/-- The state after one step that runs the word `w`. -/
def after (w : Nat) (s : State) : State := nextOr s (step (s.withFetchWord 16 w))

/-- The state after one Cycle with the random byte `r` that runs the word `w`. -/
def afterCycle (r : Byte) (w : Nat) (s : State) : State := nextOr s (cycle r (s.withFetchWord 16 w))

/-- The reset state with I at an address. -/
def atI (a : Word) : State := State.reset.setI a

/-- A state with the bytes `bs` stored from `a` up. -/
def withBytes (s : State) (a : Nat) (bs : List Byte) : State := s.setMem (s.mem.writeBytes a bs)

/-- The reset state with `n` entries on the stack, each 0x204. -/
def withCalls (n : Fin 17) : State := { State.reset with sp := n, stack := Vector.replicate 16 0x204 }

/-- The fault record (R32). -/
def record (c : Cause) (pc w : Word) (a : Nat) : FaultRecord := { cause := c, pc := pc, word := w, addr := a }

/-- A core that a fault has halted (R122). -/
def haltedCore : State := State.reset.raise .stackUnderflow 0x00EE 0

/-! ## Well-formedness -/

/-- R56: every value of every operand is legal. -/
theorem test_wellFormed_instructions :
    Instr.wellFormed .cls = true ∧ Instr.wellFormed (.call 0xFFF) = true ∧ Instr.wellFormed (.drw 15 15 15) = true
    ∧ Instr.wellFormed (.loadRegs 15) = true := by decide

/-- R142: "A ROM of exactly 3583 bytes loads"; "a ROM of 3584 bytes fails". -/
theorem test_wellFormed_rom_refused :
    romFits (List.replicate 3583 0) = true ∧ romFits (List.replicate 3584 0) = false := by
  rw [romFits, romFits, List.length_replicate, List.length_replicate]; decide

/-! ## Decoding: one word for every constructor, from the bit layouts of R55 and R57 -/

/-- Format FIXED. -/
theorem test_decode_fixed :
    decodeWord 0b0000000011100000 = .ok .cls ∧ decodeWord 0b0000000011101110 = .ok .ret := by decide

/-- Format A: `ffff aaaa aaaa aaaa`. -/
theorem test_decode_A :
    decodeWord 0b0001001000110100 = .ok (.jp 0x234) ∧ decodeWord 0b0010001100000000 = .ok (.call 0x300)
    ∧ decodeWord 0b1010000100100011 = .ok (.ldI 0x123) ∧ decodeWord 0b1011111111111111 = .ok (.jpV0 0xFFF) := by decide

/-- Format XNN: `ffff xxxx kkkk kkkk`. -/
theorem test_decode_XNN :
    decodeWord 0b0011001100010010 = .ok (.seByte 3 0x12) ∧ decodeWord 0b0100001100010010 = .ok (.sneByte 3 0x12)
    ∧ decodeWord 0b0110101000000101 = .ok (.ldByte 10 0x05) ∧ decodeWord 0b0111000100000011 = .ok (.addByte 1 0x03)
    ∧ decodeWord 0b1100001100001111 = .ok (.rnd 3 0x0F) := by decide

/-- Format XY: `ffff xxxx yyyy cccc`. -/
theorem test_decode_XY :
    decodeWord 0b0101000100100000 = .ok (.seReg 1 2) ∧ decodeWord 0b1001000100100000 = .ok (.sneReg 1 2)
    ∧ decodeWord 0b1000000100100000 = .ok (.ldReg 1 2) ∧ decodeWord 0b1000000100100001 = .ok (.orReg 1 2)
    ∧ decodeWord 0b1000000100100010 = .ok (.andReg 1 2) ∧ decodeWord 0b1000000100100011 = .ok (.xorReg 1 2)
    ∧ decodeWord 0b1000000100100100 = .ok (.addReg 1 2) ∧ decodeWord 0b1000000100100101 = .ok (.subReg 1 2)
    ∧ decodeWord 0b1000000100100110 = .ok (.shrReg 1 2) ∧ decodeWord 0b1000000100100111 = .ok (.subnReg 1 2)
    ∧ decodeWord 0b1000000100101110 = .ok (.shlReg 1 2) := by decide

/-- Format XYN: `ffff xxxx yyyy nnnn`. -/
theorem test_decode_XYN : decodeWord 0b1101000100101111 = .ok (.drw 1 2 15) := by decide

/-- Format X, family E: `ffff xxxx cccc cccc`. -/
theorem test_decode_X_keys :
    decodeWord 0b1110000110011110 = .ok (.skp 1) ∧ decodeWord 0b1110000110100001 = .ok (.sknp 1) := by decide

/-- Format X, family F. -/
theorem test_decode_X :
    decodeWord 0b1111010000000111 = .ok (.ldVxDt 4) ∧ decodeWord 0b1111001000001010 = .ok (.ldVxK 2)
    ∧ decodeWord 0b1111000100010101 = .ok (.ldDtVx 1) ∧ decodeWord 0b1111000100011000 = .ok (.ldStVx 1)
    ∧ decodeWord 0b1111001000011110 = .ok (.addI 2) ∧ decodeWord 0b1111001100101001 = .ok (.ldF 3)
    ∧ decodeWord 0b1111010100110011 = .ok (.ldB 5) ∧ decodeWord 0b1111001101010101 = .ok (.storeRegs 3)
    ∧ decodeWord 0b1111001001100101 = .ok (.loadRegs 2) := by decide

/-- R59: one word of each unknown space; and a byte string too short for a word. -/
theorem test_decode_refused :
    decodeWord 0x0123 = .error (.unknownOpcode 0x0123) ∧ decodeWord 0x5121 = .error (.unknownOpcode 0x5121)
    ∧ decodeWord 0x8128 = .error (.unknownOpcode 0x8128) ∧ decodeWord 0x9121 = .error (.unknownOpcode 0x9121)
    ∧ decodeWord 0xE19F = .error (.unknownOpcode 0xE19F) ∧ decodeWord 0xF1FF = .error (.unknownOpcode 0xF1FF)
    ∧ decodeBytes [0x12] = .error .truncated := by decide

/-- R40: the byte at the lower address is the high byte of the word. -/
theorem test_decode_bytes :
    decodeBytes [0x6A, 0x05, 0xFF] = .ok (.ldByte 10 0x05, [0xFF]) ∧ decodeTableWord 16 0x6A05 = some (.ldByte 10 5) := by
  decide

/-! ## Display -/

/-- L2-G15: 00E0 clears, REDRAW is true, VF unchanged. -/
theorem test_cls :
    let t := after 0x00E0 ((State.reset.setFb (FrameBuffer.clear.flip 5 7 (by decide))).setV 15 0x55)
    t.fb = FrameBuffer.clear ∧ t.redraw = true ∧ t.getV 15 = 0x55 ∧ t.pc = 0x202 := by decide

/-- L2-G14: bit 6 lands on column 63 and collides; columns 64 to 69 are dropped. -/
theorem test_drw_clips_and_collides :
    let s := (withBytes (atI 0x300) 0x300 [0x7F]).setFb (FrameBuffer.clear.flip 63 0 (by decide))
    let t := after 0xD121 ((s.setV 1 62).setV 2 0)
    t.fb.cell 63 0 = false ∧ t.fb.cell 0 0 = false ∧ t.getV 15 = 1 ∧ t.redraw = true := by decide

/-- L2-G8 and L2-G12: the lowest address out of range; VF as a coordinate is the old VF. -/
theorem test_drw_fault_and_vf :
    (after 0xD123 (atI 0xFFE)).fault = record .dataBounds 0x200 0xD123 0x1000
    ∧ (let t := after 0xDF11 (((withBytes (atI 0x300) 0x300 [0x80]).setV 15 2).setV 1 3)
       t.fb.cell 2 3 = true ∧ t.getV 15 = 0) := by decide

/-! ## Control flow -/

/-- L2-C5 and L2-C6. -/
theorem test_ret :
    (let t := after 0x00EE (withCalls 1); t.sp = 0 ∧ t.pc = 0x206 ∧ t.stack[0] = 0x204)
    ∧ (after 0x00EE State.reset).fault = record .stackUnderflow 0x200 0x00EE 0 := by decide

/-- L2-C3 and L2-C4. -/
theorem test_call :
    (let t := after 0x2300 State.reset; t.stack[0] = 0x200 ∧ t.sp = 1 ∧ t.pc = 0x300)
    ∧ (let t := after 0x2300 (withCalls 16)
       t.fault = record .stackOverflow 0x200 0x2300 0 ∧ t.status = .halted ∧ t.pc = 0x200) := by decide

/-- L2-C1. -/
theorem test_jp : (after 0x1234 State.reset).pc = 0x234 := by decide

/-- L2-C17: the sum passes 0xFFF, and the jump itself does not fault. -/
theorem test_jpV0 :
    let t := after 0xBFFF (State.reset.setV 0 0xFF)
    t.pc = 0x10FE ∧ t.status = .running := by decide

/-- L2-C8 and L2-C9. -/
theorem test_seByte :
    (after 0x3A05 (State.reset.setV 10 5)).pc = 0x204 ∧ (after 0x3A05 (State.reset.setV 10 6)).pc = 0x202 := by
  decide

/-- L2-C10 and L2-C11. -/
theorem test_sneByte :
    (after 0x4A05 (State.reset.setV 10 6)).pc = 0x204 ∧ (after 0x4A05 (State.reset.setV 10 5)).pc = 0x202 := by
  decide

/-- L2-C12, and its complement (R83). -/
theorem test_seReg :
    (after 0x5AB0 ((State.reset.setV 10 0x33).setV 11 0x33)).pc = 0x204
    ∧ (after 0x5AB0 (State.reset.setV 10 0x33)).pc = 0x202 := by decide

/-- L2-C13 and L2-C14. -/
theorem test_sneReg :
    (after 0x9AB0 ((State.reset.setV 10 0x33).setV 11 0x34)).pc = 0x204 ∧ (after 0x9AB0 State.reset).pc = 0x202 := by
  decide

/-! ## Registers and ALU: VF starts at 0x55 where it must not be written -/

/-- L2-A1. -/
theorem test_ldByte :
    let t := after 0x6A05 (State.reset.setV 15 0x55)
    t.getV 10 = 5 ∧ t.getV 15 = 0x55 ∧ t.redraw = false := by decide

/-- L2-A2 and L2-A3. -/
theorem test_addByte :
    (let t := after 0x7001 ((State.reset.setV 0 0xFF).setV 15 0x55); t.getV 0 = 0 ∧ t.getV 15 = 0x55)
    ∧ (after 0x7F01 (State.reset.setV 15 0xFF)).getV 15 = 0 := by decide

/-- L2-A4. -/
theorem test_ldReg :
    let t := after 0x8010 ((State.reset.setV 1 0x9A).setV 15 0x55)
    t.getV 0 = 0x9A ∧ t.getV 15 = 0x55 := by decide

/-- L2-A5. -/
theorem test_orReg :
    let t := after 0x8011 (((State.reset.setV 0 0x0F).setV 1 0xF0).setV 15 0x55)
    t.getV 0 = 0xFF ∧ t.getV 15 = 0x55 := by decide

/-- L2-A6. -/
theorem test_andReg :
    let t := after 0x8012 (((State.reset.setV 0 0x3C).setV 1 0x0F).setV 15 0x55)
    t.getV 0 = 0x0C ∧ t.getV 15 = 0x55 := by decide

/-- L2-A7 and L2-A21. -/
theorem test_xorReg :
    (after 0x8013 ((State.reset.setV 0 0x3C).setV 1 0x0F)).getV 0 = 0x33
    ∧ (after 0x8FF3 (State.reset.setV 15 0x81)).getV 15 = 0 := by decide

/-- L2-A8 and L2-A17. -/
theorem test_addReg :
    (let t := after 0x8014 ((State.reset.setV 0 0xFF).setV 1 0xFF); t.getV 0 = 0xFE ∧ t.getV 15 = 1)
    ∧ (after 0x8F14 ((State.reset.setV 15 0xFF).setV 1 1)).getV 15 = 1 := by decide

/-- L2-A9 and L2-A18. -/
theorem test_subReg :
    (let t := after 0x8015 ((State.reset.setV 0 3).setV 1 5); t.getV 0 = 0xFE ∧ t.getV 15 = 0)
    ∧ (after 0x8F15 ((State.reset.setV 15 5).setV 1 3)).getV 15 = 1 := by decide

/-- L2-A10 and L2-A11. -/
theorem test_shrReg :
    (let t := after 0x8016 ((State.reset.setV 0 0x77).setV 1 5); t.getV 0 = 2 ∧ t.getV 15 = 1)
    ∧ (let t := after 0x8016 (State.reset.setV 1 0x80); t.getV 0 = 0x40 ∧ t.getV 15 = 0) := by decide

/-- L2-A13 and L2-A14. -/
theorem test_subnReg :
    (let t := after 0x8017 ((State.reset.setV 0 5).setV 1 3); t.getV 0 = 0xFE ∧ t.getV 15 = 0)
    ∧ (after 0x8017 State.reset).getV 15 = 1 := by decide

/-- L2-A15 and L2-A20. -/
theorem test_shlReg :
    (let t := after 0x801E (State.reset.setV 1 0x81); t.getV 0 = 2 ∧ t.getV 15 = 1)
    ∧ (after 0x8FFE (State.reset.setV 15 0x81)).getV 15 = 1 := by decide

/-- L2-A23 and L2-A25: the random byte of the cycle. -/
theorem test_rnd :
    (afterCycle 0xAB 0xC00F State.reset).getV 0 = 0x0B ∧ (afterCycle 0xC3 0xCFFF State.reset).getV 15 = 0xC3 := by
  decide

/-! ## Index register and memory -/

/-- L2-I1. -/
theorem test_ldI : (after 0xA123 State.reset).i = 0x0123 := by decide

/-- L2-I3 and L2-I4. -/
theorem test_addI :
    (let t := after 0xF01E (((atI 0xFFFF).setV 0 1).setV 15 0x55); t.i = 0 ∧ t.getV 15 = 0x55)
    ∧ (after 0xF01E ((atI 0x0FFF).setV 0 1)).i = 0x1000 := by decide

/-- L2-I5 and L2-I6. -/
theorem test_ldF :
    (after 0xF329 (State.reset.setV 3 0x0A)).i = 0x0032 ∧ (after 0xF029 (State.reset.setV 0 0xFF)).i = 0x04FB := by
  decide

/-- L2-I8. -/
theorem test_ldB :
    let t := after 0xF533 ((atI 0x300).setV 5 156)
    t.mem.readBytes 0x300 3 = [1, 5, 6] ∧ t.i = 0x300 := by decide

/-- L2-I12 and L2-I13: nothing is stored. -/
theorem test_ldB_fault :
    (let t := after 0xF533 ((atI 0xFFE).setV 5 100)
     t.fault = record .dataBounds 0x200 0xF533 0x1000 ∧ t.mem.read 0xFFE = 0 ∧ t.pc = 0x200)
    ∧ (after 0xF533 (atI 0x1005)).fault.addr = 0x1005 := by decide

/-- R110: V0..V3 at 0x123..0x126; and L2-I16. -/
theorem test_storeRegs :
    (let t := after 0xF355 ((((atI 0x123).setV 0 9).setV 3 7).setV 4 5)
     t.mem.readBytes 0x122 6 = [0, 9, 0, 0, 7, 0] ∧ t.i = 0x123)
    ∧ (after 0xFF55 (atI 0xFF1)).fault = record .dataBounds 0x200 0xFF55 0x1000 := by decide

/-- L2-I20: the store goes over the instruction's second byte and the next word. -/
theorem test_storeRegs_over_code :
    let t := after 0xF155 ((atI 0x201).setV 0 0x12)
    t.mem.readBytes 0x200 3 = [0xF1, 0x12, 0x00] ∧ t.pc = 0x202 := by decide

/-- R109's example, and L2-I19. -/
theorem test_loadRegs :
    (let t := after 0xF265 (withBytes (atI 0x300) 0x300 [1, 5, 6, 9])
     t.getV 0 = 1 ∧ t.getV 1 = 5 ∧ t.getV 2 = 6 ∧ t.getV 3 = 0 ∧ t.i = 0x300)
    ∧ (let t := after 0xF165 ((atI 0xFFF).setV 0 0x77)
       t.fault = record .dataBounds 0x200 0xF165 0x1000 ∧ t.getV 0 = 0x77) := by decide

/-! ## Keypad and timers -/

/-- L2-K1 and L2-K6. -/
theorem test_skp :
    (let t := after 0xE19E ((State.reset.setV 1 5).setKey 5 true); t.pc = 0x204 ∧ t.key[5] = false)
    ∧ (after 0xE19E (State.reset.setV 1 0x10)).fault = record .keyIndex 0x200 0xE19E 0x10 := by decide

/-- L2-K2: the key is kept where the parameter says so. -/
theorem test_skp_keeps :
    let s := { State.reset with params := { unknownPolicy := .continueRun, keyClearOnRead := false } }
    let t := after 0xE19E ((s.setV 1 5).setKey 5 true)
    t.pc = 0x204 ∧ t.key[5] = true := by decide

/-- L2-K4 and L2-K5. -/
theorem test_sknp :
    (after 0xE1A1 (State.reset.setV 1 5)).pc = 0x204
    ∧ (let t := after 0xE1A1 ((State.reset.setV 1 5).setKey 5 true); t.pc = 0x202 ∧ t.key[5] = false) := by
  decide

/-- L2-K11. -/
theorem test_ldVxDt : (after 0xF407 (State.reset.setDt 0x3C)).getV 4 = 0x3C := by decide

/-- L2-K8 and L2-K9. -/
theorem test_ldVxK :
    (let t := after 0xF20A ((State.reset.setKey 9 true).setKey 3 true)
     t.getV 2 = 3 ∧ t.pc = 0x202 ∧ t.key[3] = true)
    ∧ (let t := after 0xF20A (State.reset.setV 2 0x77)
       t.pc = 0x200 ∧ t.getV 2 = 0x77 ∧ t.redraw = false) := by decide

/-- L2-K12. -/
theorem test_ldDtVx : (after 0xF115 (State.reset.setV 1 3)).dt = 3 := by decide

/-- L2-K13: only a tick raises the signal. -/
theorem test_ldStVx :
    let t := after 0xF118 (State.reset.setSt 1)
    t.st = 0 ∧ t.audioDue = false := by decide

/-! ## Cycle, transactions, construction -/

/-- L2-R2: an empty ROM's first cycle is the unknown word 0x0000; L2-C15: a fetch above memory. -/
theorem test_first_cycle_and_fetch :
    (let t := nextOr State.reset (step State.reset)
     t.err = .unknownOpcode 0x200 0 ∧ t.pc = 0x202 ∧ t.status = .running)
    ∧ (nextOr State.reset (step (State.reset.goto 0x1000))).fault = record .fetchBounds 0x1000 0 0x1000 := by
  decide

/-- R60: the halt policy. -/
theorem test_unknown_halts :
    let s := { State.reset with params := { unknownPolicy := .halt, keyClearOnRead := true } }
    let t := nextOr s (step s)
    t.status = .halted ∧ t.fault = record .unknownOpcode 0x200 0 0 ∧ t.pc = 0x200 := by decide

/-- L2-T3, L2-T2 and L2-T13. -/
theorem test_ticks :
    ((tick (State.reset.setSt 1)).audioDue = true ∧ (tick (State.reset.setSt 1)).st = 0)
    ∧ (let t := tick ((State.reset.setDt 5).setSt 2); t.dt = 4 ∧ t.st = 1 ∧ t.audioDue = false)
    ∧ (let s := ((withCalls 16).setDt 5).withFetchWord 16 0x2300
       let t := nextOr s (stepBoth true true 0 s)
       t.dt = 5 ∧ t.fault = record .stackOverflow 0x200 0x2300 0) := by decide

/-- L2-T6: the tick of a Step comes after its cycle. -/
theorem test_step_order :
    let s := (State.reset.setDt 5).withFetchWord 16 0xF007
    let t := nextOr s (stepBoth true true 0 s)
    t.getV 0 = 5 ∧ t.dt = 4 ∧ t.pc = 0x202 := by decide

/-- L2-T9, L2-T10, L2-T11 and L2-T5. -/
theorem test_host :
    (shutdown State.reset).status = .stopped ∧ (shutdown haltedCore).status = .halted
    ∧ (keyWrite 3 true haltedCore).key[3] = true
    ∧ (audioAck { State.reset with audioDue := true }).audioDue = false := by decide

/-- R37, R135: what the host sees, and nothing of it is changed by reading. -/
theorem test_host_read :
    (hostRead (State.reset.setDt 7)).dt = 7 ∧ (hostRead haltedCore).fault = record .stackUnderflow 0x200 0x00EE 0 := by
  decide

/-- L2-R1 and L2-R5. -/
theorem test_construct :
    let m := constructMemory [0x60, 0x07] fontParameter
    construct [0x60, 0x07] fontParameter Config.defaultParams = .ok { State.reset with mem := m }
    ∧ m.readBytes 0x1FF 4 = [0, 0x60, 0x07, 0] ∧ m.readBytes 0x04B 6 = [0xF0, 0x80, 0xF0, 0x80, 0x80, 0] :=
  ⟨rfl, by decide⟩

/-- L2-R4: RomTooLarge, cause code 7. -/
theorem test_construct_refused :
    construct (List.replicate 3584 0) fontParameter Config.defaultParams = .error (.romTooLarge 3584)
    ∧ (ConstructError.romTooLarge 3584).cause.code = 7 := by
  refine ⟨?_, rfl⟩
  rw [construct, romFits, List.length_replicate]
  rfl

/-! ## Witnesses: the hypotheses of the statements are met -/

theorem witness_OpcodeRowsAreDisjoint :
    ∃ h : 33 < encodingTable.length, rowMatches encodingTable[33] 0xFF65 = true := ⟨by decide, by decide⟩

theorem witness_DecodeOfEncode : Instr.wellFormed (.drw 15 0 15) = true := by decide

theorem witness_EncodeOfDecode : decodeWord 0xF065 = .ok (.loadRegs 0) ∧ decodeWord 0xFF65 = .ok (.loadRegs 15) := by
  decide

/-- A running core at the highest PC that can be fetched. -/
def topCore : State := (State.reset.goto 0xFFE).withFetchWord 16 0x6A05

theorem witness_StepRunsTheDecodedInstruction :
    topCore.inbox = [] ∧ topCore.status = .running ∧ topCore.pc.toNat ≤ 0xFFE
    ∧ decodeWord (topCore.mem.read topCore.pc.toNat ++ topCore.mem.read (topCore.pc.toNat + 1)) = .ok (.ldByte 10 5) := by
  decide

theorem witness_StepAppliesTheNextTransaction :
    ({ topCore with inbox := [.cycle 7, .tick] } : State).inbox = .cycle 7 :: [.tick]
    ∧ topCore.status = .running ∧ topCore.pc.toNat ≤ 0xFFE
    ∧ decodeWord (topCore.mem.read topCore.pc.toNat ++ topCore.mem.read (topCore.pc.toNat + 1)) = .ok (.ldByte 10 5) := by
  decide

theorem witness_FetchAboveMemoryFaults :
    let s := State.reset.goto 0xFFF
    let t := State.reset.goto 0x1000
    s.status = .running ∧ 0xFFE < s.pc.toNat ∧ ¬ 0xFFF < s.pc.toNat ∧ t.status = .running ∧ 0xFFF < t.pc.toNat
    ∧ s.fault.cause ≠ .fetchBounds := by decide

theorem witness_UnknownWordFollowsThePolicy :
    let s := State.reset
    let h := { State.reset with params := { unknownPolicy := .halt, keyClearOnRead := true } }
    s.status = .running ∧ s.pc.toNat ≤ 0xFFE ∧ s.mem.read s.pc.toNat ++ s.mem.read (s.pc.toNat + 1) = (0 : Word)
    ∧ decodeWord 0 = .error (.unknownOpcode 0) ∧ s.params.unknownPolicy = .continueRun
    ∧ h.params.unknownPolicy = .halt := by decide

/-- A cycle that draws, one that does not and one with an unknown word, all of which complete. -/
theorem witness_CompletedCycleWritesRedrawAndErr :
    (after 0xD120 State.reset).status = .running ∧ (after 0x6A05 State.reset).status = .running
    ∧ (after 0x0000 State.reset).status = .running := by decide

/-- A fetch that faults and an instruction that faults. -/
theorem witness_FaultsArePrecise :
    State.reset.status = .running ∧ (nextOr State.reset (cycle 0 (State.reset.goto 0xFFF))).status ≠ .running
    ∧ (afterCycle 0 0x00EE State.reset).status ≠ .running := by decide

/-- No rows at any I; the last two bytes of memory as rows; a collision and none. -/
theorem witness_DrawSprite :
    ((0 : Nibble) = 0 ∨ (atI 0xFFFF).i.toNat + (0 : Nibble).toNat ≤ 0x1000)
    ∧ (atI 0xFFE).i.toNat + (2 : Nibble).toNat ≤ 0x1000
    ∧ (let s := (withBytes (atI 0xFFE) 0xFFE [0x80, 0x01]).setFb (FrameBuffer.clear.flip 7 1 (by decide))
       spriteOn s.mem s.i.toNat 0 0 2 7 1 = true ∧ s.fb.cell 7 1 = true
       ∧ (after 0xD122 s).getV Reg.vf = 1 ∧ (after 0xD122 (s.setFb FrameBuffer.clear)).getV Reg.vf = 0) := by
  decide

theorem witness_SpriteOffGridDrawsNothing :
    64 ≤ (((atI 0x300).setV 1 64).getV 1).toNat
    ∧ 32 ≤ (((atI 0xFFF).setV 2 32).getV 2).toNat ∧ (atI 0xFFF).i.toNat + (1 : Nibble).toNat ≤ 0x1000
    ∧ (0 : Nibble) = 0 := by decide

theorem witness_DrawTwiceRestores :
    (1 : Reg) ≠ Reg.vf ∧ (14 : Reg) ≠ Reg.vf ∧ (atI 0xFF1).i.toNat + (15 : Nibble).toNat ≤ 0x1000 := by decide

theorem witness_ReturnPopsTheStack :
    0 < (withCalls 1).sp.val ∧ 0 < (withCalls 16).sp.val ∧ (withCalls 0).sp = 0 := by decide

theorem witness_CallPushesItsAddress :
    (withCalls 0).sp.val < 16 ∧ (withCalls 15).sp.val < 16 ∧ (withCalls 16).sp.val = 16 := by decide

/-- The state in which the return runs differs from the one the call left. -/
theorem witness_CallThenReturnResumes :
    let t := after 0x2300 (withCalls 15)
    let u := (t.setV 3 9).goto 0x400
    (withCalls 15).sp.val < 16 ∧ u.stack = t.stack ∧ u.sp = t.sp ∧ t.sp = 16 := by decide

theorem witness_FlagRegisterAsOperand : (0 : Reg) ≠ Reg.vf ∧ (14 : Reg) ≠ Reg.vf := by decide

theorem witness_RandomByteReadOnlyByRnd : ∀ (x : Reg) (nn : Byte), Instr.cls ≠ .rnd x nn := by
  intro x nn h; cases h

theorem witness_DecimalDigitsStored :
    (atI 0xFFD).mem.wf = true ∧ (atI 0xFFD).i.toNat + 2 ≤ 0xFFF ∧ 0xFFF < (atI 0xFFE).i.toNat + 2 := by decide

theorem witness_RegistersStored :
    (atI 0xFF0).mem.wf = true ∧ (atI 0xFF0).i.toNat + (15 : Reg).val ≤ 0xFFF
    ∧ 0xFFF < (atI 0xFF1).i.toNat + (15 : Reg).val ∧ 0xFFF < (atI 0x1000).i.toNat + (0 : Reg).val := by decide

theorem witness_RegistersLoaded :
    (atI 0xFFF).i.toNat + (0 : Reg).val ≤ 0xFFF ∧ 0xFFF < (atI 0xFFF).i.toNat + (1 : Reg).val := by decide

theorem witness_StoreThenLoadRestores :
    let t := after 0xF355 (atI 0xFFC)
    let u := (t.setV 0 0xEE).goto 0x400
    (atI 0xFFC).mem.wf = true ∧ (atI 0xFFC).i.toNat + (3 : Reg).val ≤ 0xFFF ∧ u.mem = t.mem ∧ u.i = (atI 0xFFC).i := by
  decide

theorem witness_DataFaultNamesTheLowestAddress :
    2 < dataCount (.ldB 5) ∧ 0xFFF < (atI 0xFFE).i.toNat + 2 ∧ 0 < dataCount (.storeRegs 0)
    ∧ 0xFFF < (atI 0x1000).i.toNat + 0 ∧ 14 < dataCount (.drw 1 2 15) ∧ 0xFFF < (atI 0xFF2).i.toNat + 14 := by
  decide

/-- Two memories that differ, but not in the block of an FX65 with X = 0 at 0x300. -/
theorem witness_DataReadsStayInTheBlock :
    let m : Memory := [(0x301, 0xEE)]
    (∀ a, (atI 0x300).i.toNat ≤ a → a < (atI 0x300).i.toNat + dataCount (.loadRegs 0) →
      m.read a = (atI 0x300).mem.read a)
    ∧ m.read 0x301 ≠ (atI 0x300).mem.read 0x301 := by
  refine ⟨fun a h1 h2 => ?_, by decide⟩
  have h3 : (atI 0x300).i.toNat = 0x300 := by decide
  have h4 : dataCount (.loadRegs 0) = 1 := rfl
  obtain rfl : a = 0x300 := by omega
  decide

theorem witness_StoredWordIsFetchedNext :
    let s := ((atI 0xFFE).goto 0xFFC).setV 0 0x12
    s.mem.wf = true ∧ 1 ≤ (1 : Reg).val ∧ s.i = s.pc + 2 ∧ s.i.toNat + (1 : Reg).val ≤ 0xFFF := by decide

theorem witness_KeySkips :
    ((State.reset.setV 1 15).getV 1).toNat = (15 : Fin 16).val ∧ (State.reset.getV 1).toNat = (0 : Fin 16).val
    ∧ 15 < ((State.reset.setV 1 16).getV 1).toNat ∧ State.reset.params.keyClearOnRead = true := by decide

theorem witness_WaitForKey :
    let s := (State.reset.setKey 15 true).setKey 14 true
    (s.key[(14 : Fin 16)] = true ∧ ∀ j : Fin 16, j < 14 → s.key[j] = false)
    ∧ ∀ k : Fin 16, State.reset.key[k] = false := by decide

theorem witness_WaitingCycleChangesNothingElse :
    let s := State.reset.withFetchWord 16 0xF20A
    s.status = .running ∧ s.pc.toNat ≤ 0xFFE
    ∧ decodeWord (s.mem.read s.pc.toNat ++ s.mem.read (s.pc.toNat + 1)) = .ok (.ldVxK 2)
    ∧ ∀ k : Fin 16, s.key[k] = false := by decide

/-- A key that is down after EX9E of another key, and was down before it. -/
theorem witness_InstructionsNeverPressKeys :
    (after 0xE19E (State.reset.setKey 5 true)).key[(5 : Fin 16)] = true := by decide

theorem witness_TickCountsDown : State.reset.status = .running ∧ haltedCore.status ≠ .running := by decide

/-- A tick that raises the signal; a Step whose own cycle sets ST to 1 and whose tick raises it; and a tick at ST = 0, which
does not (R130). -/
theorem witness_AudioDueOnlyFromTick :
    let s := { State.reset.setSt 1 with inbox := [.tick] }
    let u := { (State.reset.setV 1 1).withFetchWord 16 0xF118 with inbox := [.step true true 0] }
    let z := { State.reset with inbox := [.tick] }
    (s.audioDue = false ∧ (nextOr s (step s)).audioDue = true)
    ∧ (u.audioDue = false ∧ u.st = 0 ∧ (nextOr u (step u)).audioDue = true ∧ (nextOr u (step u)).st = 0)
    ∧ (z.audioDue = false ∧ (nextOr z (step z)).audioDue = false) := by decide

theorem witness_StepIsCycleThenTick :
    (nextOr State.reset (cycle 0 (State.reset.withFetchWord 16 0x00EE))).status ≠ .running := by decide

theorem witness_HostTransactions : (3 : Fin 16) ≠ 15 := by decide

theorem witness_OnlyARunningCoreRuns :
    haltedCore.status ≠ .running ∧ (shutdown State.reset).status ≠ .running ∧ haltedCore.inbox = [] := by decide

/-- A halted core whose host still has transactions. -/
theorem witness_NoStepResumesTheCore :
    ({ haltedCore with inbox := [.cycle 0, .shutdown] } : State).status ≠ .running
    ∧ (shutdown State.reset).status ≠ .running := by decide

/-- Two stacks that differ above SP only. -/
theorem witness_DeadStackEntriesUnobserved :
    let s := withCalls 1
    let k : Vector Word 16 := s.stack.set 1 0x999
    (∀ j : Fin 16, j.val < s.sp.val → k[j] = s.stack[j]) ∧ k ≠ s.stack := by decide

theorem witness_ConstructRefusesLongRoms :
    3583 < (List.replicate 3584 (0 : Byte)).length ∧ (List.replicate 3583 (0 : Byte)).length ≤ 3583 := by
  rw [List.length_replicate, List.length_replicate]; decide

/-- A core of a ROM of two bytes, with addresses of each range of its memory map. -/
theorem witness_ConstructedCore :
    (∃ s, construct [0x60, 0x07] fontParameter Config.defaultParams = .ok s)
    ∧ (79 < 80 ∧ 1 < ([0x60, 0x07] : List Byte).length)
    ∧ (80 ≤ 0x1FF ∧ 0x1FF < 0x200 ∧ 0x200 + ([0x60, 0x07] : List Byte).length ≤ 0x202 ∧ 0xFFF ≤ 0xFFF) :=
  ⟨⟨_, rfl⟩, by decide, by decide⟩

theorem witness_InvariantAtConstruct :
    ∃ s, construct [0x22, 0x00] fontParameter { unknownPolicy := .halt, keyClearOnRead := false } = .ok s := ⟨_, rfl⟩

/-- A running core and a halted one. -/
theorem witness_EveryStepKeepsTheInvariant : CoreInvariant State.reset ∧ CoreInvariant haltedCore := by decide

end Sys2Proof.Tests
end

section
/-! PROOFS. A cycle's faults are precise, the parameters never change, the sample words of the opcode map decode, and the
reset state is the core of an empty ROM. First, decoding is strict (rule R58), since the word in a fault record is the
encoding of the instruction (log entry 7). -/

namespace Sys2Proof

/-! ## Decoding is strict (R57, R58)

One lemma per encoding format of R55: a word whose masked bits are those of the format is the format applied to the word's
own fields. -/

@[simp] theorem regField_regOf (f : Nibble) : regField (regOf f) = f := rfl

theorem encodeA_fieldsOf {f : Nibble} {w : Word} (h : w &&& 0xF000 = encodeA f 0) : encodeA f (fieldsOf w).nnn = w := by
  refine BitVec.eq_of_getLsbD_eq fun k hk => ?_
  have hbit := congrArg (·.getLsbD k) h
  simp only [encodeA, fieldsOf, BitVec.getLsbD_and, BitVec.getLsbD_append, BitVec.getLsbD_extractLsb'] at hbit ⊢
  interval_cases k <;> simp_all

theorem encodeXNN_fieldsOf {f : Nibble} {w : Word} (h : w &&& 0xF000 = encodeXNN f 0 0) :
    encodeXNN f (regOf (fieldsOf w).x) (fieldsOf w).nn = w := by
  refine BitVec.eq_of_getLsbD_eq fun k hk => ?_
  have hbit := congrArg (·.getLsbD k) h
  simp only [encodeXNN, regField_regOf, fieldsOf, BitVec.getLsbD_and, BitVec.getLsbD_append,
    BitVec.getLsbD_extractLsb'] at hbit ⊢
  interval_cases k <;> simp_all

theorem encodeXYN_fieldsOf {f c : Nibble} {w : Word} (h : w &&& 0xF00F = encodeXYN f 0 0 c) :
    encodeXYN f (regOf (fieldsOf w).x) (regOf (fieldsOf w).y) c = w := by
  refine BitVec.eq_of_getLsbD_eq fun k hk => ?_
  have hbit := congrArg (·.getLsbD k) h
  simp only [encodeXYN, regField_regOf, fieldsOf, BitVec.getLsbD_and, BitVec.getLsbD_append,
    BitVec.getLsbD_extractLsb'] at hbit ⊢
  interval_cases k <;> simp_all

theorem encodeXYN_fieldsOf_family {f : Nibble} {w : Word} (h : w &&& 0xF000 = encodeXYN f 0 0 0) :
    encodeXYN f (regOf (fieldsOf w).x) (regOf (fieldsOf w).y) (fieldsOf w).n = w := by
  refine BitVec.eq_of_getLsbD_eq fun k hk => ?_
  have hbit := congrArg (·.getLsbD k) h
  simp only [encodeXYN, regField_regOf, fieldsOf, BitVec.getLsbD_and, BitVec.getLsbD_append,
    BitVec.getLsbD_extractLsb'] at hbit ⊢
  interval_cases k <;> simp_all

theorem encodeX_fieldsOf {f : Nibble} {c : Byte} {w : Word} (h : w &&& 0xF0FF = encodeX f 0 c) :
    encodeX f (regOf (fieldsOf w).x) c = w := by
  refine BitVec.eq_of_getLsbD_eq fun k hk => ?_
  have hbit := congrArg (·.getLsbD k) h
  simp only [encodeX, regField_regOf, fieldsOf, BitVec.getLsbD_and, BitVec.getLsbD_append,
    BitVec.getLsbD_extractLsb'] at hbit ⊢
  interval_cases k <;> simp_all

/-- Every word of the row is the encoding of the instruction that the row builds from the word's fields. -/
def EncodingRow.Strict (r : EncodingRow) : Prop :=
  ∀ w, w &&& r.mask = r.value → encode (r.build (fieldsOf w)) = w

theorem strict_formatFixed {v : Word} {i : Instr} (hi : encode i = v) : EncodingRow.Strict ⟨v, 0xFFFF, fun _ => i⟩ := by
  intro w hw
  have hmask : w &&& 0xFFFF = w := BitVec.and_allOnes
  exact hi.trans (hw.symm.trans hmask)

theorem strict_formatA {v : Word} {f : Nibble} (hv : v = encodeA f 0) (b : Addr → Instr)
    (hb : ∀ a, encode (b a) = encodeA f a) : EncodingRow.Strict ⟨v, 0xF000, fun F => b F.nnn⟩ :=
  fun _ hw => (hb _).trans (encodeA_fieldsOf (hw.trans hv))

theorem strict_formatXNN {v : Word} {f : Nibble} (hv : v = encodeXNN f 0 0) (b : Reg → Byte → Instr)
    (hb : ∀ x nn, encode (b x nn) = encodeXNN f x nn) :
    EncodingRow.Strict ⟨v, 0xF000, fun F => b (regOf F.x) F.nn⟩ :=
  fun _ hw => (hb _ _).trans (encodeXNN_fieldsOf (hw.trans hv))

theorem strict_formatXY {v : Word} {f c : Nibble} (hv : v = encodeXYN f 0 0 c) (b : Reg → Reg → Instr)
    (hb : ∀ x y, encode (b x y) = encodeXYN f x y c) :
    EncodingRow.Strict ⟨v, 0xF00F, fun F => b (regOf F.x) (regOf F.y)⟩ :=
  fun _ hw => (hb _ _).trans (encodeXYN_fieldsOf (hw.trans hv))

theorem strict_formatXYN {v : Word} {f : Nibble} (hv : v = encodeXYN f 0 0 0) (b : Reg → Reg → Nibble → Instr)
    (hb : ∀ x y n, encode (b x y n) = encodeXYN f x y n) :
    EncodingRow.Strict ⟨v, 0xF000, fun F => b (regOf F.x) (regOf F.y) F.n⟩ :=
  fun _ hw => (hb _ _ _).trans (encodeXYN_fieldsOf_family (hw.trans hv))

theorem strict_formatX {v : Word} {f : Nibble} {c : Byte} (hv : v = encodeX f 0 c) (b : Reg → Instr)
    (hb : ∀ x, encode (b x) = encodeX f x c) : EncodingRow.Strict ⟨v, 0xF0FF, fun F => b (regOf F.x)⟩ :=
  fun _ hw => (hb _).trans (encodeX_fieldsOf (hw.trans hv))

/-- Each of the 34 rows is strict, by its format. -/
theorem strict_of_mem_encodingTable : ∀ r ∈ encodingTable, r.Strict := by
  simp only [encodingTable, List.cons_append, List.nil_append, List.forall_mem_cons]
  exact
    ⟨strict_formatFixed rfl, strict_formatFixed rfl,
      strict_formatA rfl .jp fun _ => rfl, strict_formatA rfl .call fun _ => rfl,
      strict_formatXNN rfl .seByte fun _ _ => rfl, strict_formatXNN rfl .sneByte fun _ _ => rfl,
      strict_formatXY rfl .seReg fun _ _ => rfl,
      strict_formatXNN rfl .ldByte fun _ _ => rfl, strict_formatXNN rfl .addByte fun _ _ => rfl,
      strict_formatXY rfl .ldReg fun _ _ => rfl, strict_formatXY rfl .orReg fun _ _ => rfl,
      strict_formatXY rfl .andReg fun _ _ => rfl, strict_formatXY rfl .xorReg fun _ _ => rfl,
      strict_formatXY rfl .addReg fun _ _ => rfl, strict_formatXY rfl .subReg fun _ _ => rfl,
      strict_formatXY rfl .shrReg fun _ _ => rfl, strict_formatXY rfl .subnReg fun _ _ => rfl,
      strict_formatXY rfl .shlReg fun _ _ => rfl, strict_formatXY rfl .sneReg fun _ _ => rfl,
      strict_formatA rfl .ldI fun _ => rfl, strict_formatA rfl .jpV0 fun _ => rfl,
      strict_formatXNN rfl .rnd fun _ _ => rfl, strict_formatXYN rfl .drw fun _ _ _ => rfl,
      strict_formatX rfl .skp fun _ => rfl, strict_formatX rfl .sknp fun _ => rfl,
      strict_formatX rfl .ldVxDt fun _ => rfl, strict_formatX rfl .ldVxK fun _ => rfl,
      strict_formatX rfl .ldDtVx fun _ => rfl, strict_formatX rfl .ldStVx fun _ => rfl,
      strict_formatX rfl .addI fun _ => rfl, strict_formatX rfl .ldF fun _ => rfl,
      strict_formatX rfl .ldB fun _ => rfl, strict_formatX rfl .storeRegs fun _ => rfl,
      strict_formatX rfl .loadRegs fun _ => rfl, List.forall_mem_nil _⟩

/-- A word that decodes was decoded by a row that matches it (R58). -/
theorem exists_row_of_decodeWord {w : Word} {i : Instr} (h : decodeWord w = .ok i) :
    ∃ r ∈ encodingTable, rowMatches r w = true ∧ r.build (fieldsOf w) = i := by
  unfold decodeWord at h
  split at h
  · rename_i r hr
    exact ⟨r, List.mem_of_find?_eq_some hr, List.find?_some (p := fun r => rowMatches r w) hr, Except.ok.inj h⟩
  · cases h

/-- Decoding is strict (R58): no bit of a word that decodes is dropped. -/
theorem encode_of_decodeWord {w : Word} {i : Instr} (h : decodeWord w = .ok i) : encode i = w := by
  obtain ⟨r, hmem, hmatch, hbuild⟩ := exists_row_of_decodeWord h
  rw [← hbuild]
  exact strict_of_mem_encodingTable r hmem w (beq_iff_eq.mp hmatch)

end Sys2Proof

namespace Sys2Proof.Machine

/-! ## The outcomes of a cycle -/

/-- The fetched word is the word at PC (R42). -/
theorem readWord_of_fetch {s : State} {w : Word} (h : fetch s = .ok w) : w = s.mem.readWord s.pc.toNat := by
  unfold fetch at h
  split at h
  · exact (Except.ok.inj h).symm
  · cases h

/-- The parameters and the latch of the random byte are the same in both states (log entries 1 and 2). -/
def KeepsParameters (s t : State) : Prop := t.params = s.params ∧ t.rnd = s.rnd

theorem KeepsParameters.trans {s t u : State} (h : KeepsParameters s t) (k : KeepsParameters t u) : KeepsParameters s u :=
  ⟨k.left.trans h.left, k.right.trans h.right⟩

/-- The state a precise fault leaves: only STATUS and FAULT are written, and the record holds the PC and the word at it, or
the word 0 when the fetch failed (R32, R122). -/
def PreciseFault (s t : State) : Prop :=
  ∃ c w a, t = faulted s c w a ∧ ((c = .fetchBounds ∧ w = 0) ∨ w = s.mem.readWord s.pc.toNat)

theorem preciseFault_raise {s : State} {w : Word} (hw : fetch s = .ok w) (c : Cause) (a : Nat) :
    PreciseFault s (s.raise c w a) :=
  ⟨c, w, a, raise_eq_faulted s c w a, .inr (readWord_of_fetch hw)⟩

theorem PreciseFault.keepsParameters {s t : State} (h : PreciseFault s t) : KeepsParameters s t := by
  obtain ⟨c, w, a, rfl, -⟩ := h
  exact ⟨rfl, rfl⟩

/-- An unknown word: the fault under the halt policy, else passed over by a core that still runs (R60). -/
theorem unknownWord_cases (w : Word) (s : State) :
    unknownWord w s = s.raise .unknownOpcode w 0
    ∨ (unknownWord w s).status = s.status ∧ KeepsParameters s (unknownWord w s) := by
  unfold unknownWord
  split
  · exact .inl rfl
  · exact .inr ⟨rfl, rfl, rfl⟩

/-- A cycle of a running core faults precisely or leaves the core running; the parameters are kept (R13, R63, R122). -/
theorem cycle_of_running (r : Byte) {s : State} (hs : s.status = .running) :
    ∃ t, cycle r s = .next t ∧ (PreciseFault s t ∨ t.status = .running ∧ KeepsParameters s t) := by
  rcases cycle_cases r s with ⟨hn, -⟩ | ⟨-, a, -, h⟩ | ⟨-, w, e, hw, -, h⟩ | ⟨-, w, i, hw, hi, h⟩
  case inl => exact absurd hs hn
  case inr.inl => exact ⟨_, h, .inl ⟨.fetchBounds, 0, a, rfl, .inl ⟨rfl, rfl⟩⟩⟩
  case inr.inr.inl =>
    refine ⟨_, h, ?_⟩
    rcases unknownWord_cases w s with hf | ⟨hst, hk⟩
    · exact .inl (hf ▸ preciseFault_raise hw _ _)
    · exact .inr ⟨hst.trans hs, hk⟩
  case inr.inr.inr =>
    have hword : encode i = w := encode_of_decodeWord hi
    rcases runInstr_cases i r s with ⟨c, a, -, hrun⟩ | ⟨t, -, hc, hrun⟩
    · refine ⟨_, h.trans hrun, .inl ?_⟩
      rw [complete_of_halted (State.raise_status s c _ a), hword]
      exact preciseFault_raise hw c a
    · refine ⟨_, h.trans hrun, .inr ?_⟩
      have ht : t.status = .running := hc.status.trans hs
      rw [complete_of_running ht]
      exact ⟨ht, hc.params, rfl⟩

/-! ## Every transaction keeps the parameters -/

theorem cycle_keepsParameters (r : Byte) (s : State) : Answers (cycle r s) (KeepsParameters s) := by
  by_cases hs : s.status = .running
  · obtain ⟨t, h, hf | ⟨-, hk⟩⟩ := cycle_of_running r hs
    · exact ⟨t, h, hf.keepsParameters⟩
    · exact ⟨t, h, hk⟩
  · exact ⟨s, cycle_of_not_running hs, rfl, rfl⟩

theorem freeCycle_keepsParameters (s : State) : Answers (freeCycle s) (KeepsParameters s) := by
  unfold freeCycle
  split
  · exact ⟨s, rfl, rfl, rfl⟩
  · exact ⟨s, rfl, rfl, rfl⟩
  · exact cycle_keepsParameters _ { s with drawn := s.drawn + 1 }

theorem tick_keepsParameters (s : State) : KeepsParameters s (tick s) := by
  unfold tick
  split <;> exact ⟨rfl, rfl⟩

theorem shutdown_keepsParameters (s : State) : KeepsParameters s (shutdown s) := by
  unfold shutdown
  split <;> exact ⟨rfl, rfl⟩

theorem stepBoth_keepsParameters (doCycle doTick : Bool) (r : Byte) (s : State) :
    Answers (stepBoth doCycle doTick r s) (KeepsParameters s) := by
  have hcycle : Answers (if doCycle then cycle r s else .next s) (KeepsParameters s) := by
    cases doCycle
    · exact ⟨s, rfl, rfl, rfl⟩
    · exact cycle_keepsParameters r s
  obtain ⟨t, h, hk⟩ := hcycle
  refine ⟨if doTick then tick t else t, by rw [stepBoth, h]; rfl, ?_⟩
  cases doTick
  · exact hk
  · exact hk.trans (tick_keepsParameters t)

theorem applyTransaction_keepsParameters (t : Transaction) (s : State) :
    Answers (applyTransaction t s) (KeepsParameters s) := by
  cases t with
  | cycle r => exact cycle_keepsParameters r s
  | tick => exact ⟨_, rfl, tick_keepsParameters s⟩
  | step doCycle doTick r => exact stepBoth_keepsParameters doCycle doTick r s
  | keyWrite k down => exact ⟨_, rfl, rfl, rfl⟩
  | audioAck => exact ⟨_, rfl, rfl, rfl⟩
  | shutdown => exact ⟨_, rfl, shutdown_keepsParameters s⟩
  | read => exact ⟨s, rfl, rfl, rfl⟩

theorem step_keepsParameters (s : State) : Answers (step s) (KeepsParameters s) := by
  cases h : s.inbox with
  | nil => rw [step_of_empty_inbox h]; exact freeCycle_keepsParameters s
  | cons t rest => rw [step_of_inbox h]; exact applyTransaction_keepsParameters t { s with inbox := rest }

/-! ## The memory of an empty ROM -/

/-- The default font is what its addresses read as at construction, so storing it lists no byte (log entry 5). -/
theorem constructMemory_nil : constructMemory [] fontParameter = [] := by decide

/-! ## The obligations -/

/-- Settles O13: the two outcomes of a cycle, of which only the precise fault does not run; `readWord` is the two bytes at PC
by definition. -/
theorem faultsArePrecise : Obligations.FaultsArePrecise := by
  unfold Obligations.FaultsArePrecise
  intro r s hs
  obtain ⟨t, h, hf | ⟨hrun, -⟩⟩ := cycle_of_running r hs
  · exact ⟨t, h, fun _ => hf⟩
  · exact ⟨t, h, fun hn => absurd hrun hn⟩

/-- Settles O54: each transaction, and the free cycle of an empty inbox, keeps both fields. -/
theorem parametersNeverChange : Obligations.ParametersNeverChange := step_keepsParameters

/-- Settles O1: the field tuple and the decoder evaluated on each word. -/
theorem opcodeMapWordsDecode : Obligations.OpcodeMapWordsDecode := by
  unfold Obligations.OpcodeMapWordsDecode
  refine ⟨rfl, ?_⟩
  decide

/-- Settles O58: an empty ROM fits and its memory lists no byte. -/
theorem resetIsTheEmptyRomCore : Obligations.ResetIsTheEmptyRomCore := by
  refine ⟨?_, ?_⟩
  · have hfits : romFits [] = true := rfl
    rw [construct, if_pos hfits, constructMemory_nil]
    rfl
  · decide

end Sys2Proof.Machine
end

section
/-! PROOFS. The pieces of the state: which of them an instruction writes (R20 to R30), what a cycle and a tick leave of
them (R63, R129), the invariant of the machine at construction and over every step, and the flag register as an operand
(R103). -/

namespace Sys2Proof

open Sys2Proof.Machine

/-! ## Answers and frames compose -/

theorem Answers.mono {r : Result} {P Q : State → Prop} (h : Answers r P) (hPQ : ∀ t, P t → Q t) : Answers r Q := by
  obtain ⟨t, hr, hP⟩ := h
  exact ⟨t, hr, hPQ t hP⟩

theorem OnlyChanges.refl (ps : List Part) (s : State) : OnlyChanges ps s s := by
  intro p _
  cases p <;> simp [Part.same]

theorem OnlyChanges.trans {ps : List Part} {s t u : State} (h : OnlyChanges ps s t) (k : OnlyChanges ps t u) :
    OnlyChanges ps s u := by
  intro p hp
  have hst := h p hp
  have htu := k p hp
  cases p <;> simp_all [Part.same]

end Sys2Proof

namespace Sys2Proof.Machine

/-! ## The outcomes of a cycle, with the state each leaves -/

/-- A fault kind that a cycle of `s` can raise: UNKNOWN_OPCODE only under the halt policy, ROM_TOO_LARGE never (R121,
R126). -/
def RaisedByCycle (s : State) (c : Cause) : Prop :=
  c ≠ .noFault ∧ c ≠ .romTooLarge ∧ (c = .unknownOpcode → s.params.unknownPolicy = .halt)

/-- The fault kinds of R124 are none of the three that only the cycle's frame, or Construct, records. -/
theorem raisedByCycle_of_faultKind {i : Instr} {c : Cause} (s : State) (h : faultKind i = some c) :
    RaisedByCycle s c := by
  unfold faultKind at h
  split at h <;> cases h <;> exact ⟨by decide, by decide, nofun⟩

/-- What a cycle of a running core can leave (R60, R63, R122): a fault's state, an unknown word reported and passed over,
or an instruction's next state with REDRAW and ERR written. -/
inductive CycleOutcome (r : Byte) (s : State) : State → Prop
  | faults {c : Cause} {w : Word} {a : Nat} (hc : RaisedByCycle s c) : CycleOutcome r s (s.raise c w a)
  | passesOver {w : Word} {e : DecodeError} (hw : fetch s = .ok w) (hd : decodeWord w = .error e)
      (hp : s.params.unknownPolicy = .continueRun) :
      CycleOutcome r s { s with err := .unknownOpcode s.pc w, redraw := false, pc := s.pc + 2 }
  | completes {w : Word} {i : Instr} {u : State} (hw : fetch s = .ok w) (hd : decodeWord w = .ok i)
      (hx : exec i (s.setRnd r) = .next u) (hk : KeepsControl (s.setRnd r) u) :
      CycleOutcome r s { u with redraw := isDrawing i, err := .noReport, rnd := s.rnd }

/-- Every cycle of a running core has one of the three outcomes. -/
theorem cycle_outcome (r : Byte) {s : State} (hs : s.status = .running) : Answers (cycle r s) (CycleOutcome r s) := by
  rcases cycle_cases r s with ⟨hn, -⟩ | ⟨-, a, -, h⟩ | ⟨-, w, e, hw, hd, h⟩ | ⟨-, w, i, hw, hd, h⟩
  case inl => exact absurd hs hn
  case inr.inl => exact ⟨_, h, .faults ⟨by decide, by decide, nofun⟩⟩
  case inr.inr.inl =>
    refine ⟨_, h, ?_⟩
    cases hp : s.params.unknownPolicy with
    | continueRun => simp only [unknownWord, hp]; exact .passesOver hw hd hp
    | halt => simp only [unknownWord, hp]; exact .faults ⟨by decide, by decide, fun _ => hp⟩
  case inr.inr.inr =>
    rcases runInstr_cases i r s with ⟨c, a, hkind, hrun⟩ | ⟨u, hx, hk, hrun⟩
    · refine ⟨_, h.trans hrun, ?_⟩
      rw [complete_of_halted (State.raise_status s c _ a)]
      exact .faults (raisedByCycle_of_faultKind s hkind)
    · refine ⟨_, h.trans hrun, ?_⟩
      rw [complete_of_running (hk.status.trans hs)]
      exact CycleOutcome.completes (u := u) hw hd hx hk

theorem cycle_keepsAudioDue (r : Byte) (s : State) : Answers (cycle r s) fun t => t.audioDue = s.audioDue := by
  by_cases hs : s.status = .running
  · obtain ⟨t, h, ht⟩ := cycle_outcome r hs
    refine ⟨t, h, ?_⟩
    cases ht with
    | faults _ => rfl
    | passesOver _ _ _ => rfl
    | completes _ _ _ hk => exact hk.audioDue
  · exact ⟨s, cycle_of_not_running hs, rfl⟩

theorem freeCycle_of_running {s : State} (h : s.status = .running) :
    freeCycle s = cycle (Config.randomByte s.drawn) { s with drawn := s.drawn + 1 } := by
  rw [freeCycle, h]

theorem freeCycle_of_not_running {s : State} (h : s.status ≠ .running) : freeCycle s = .next s := by
  unfold freeCycle
  split
  · rfl
  · rfl
  · contradiction

/-! ## The tick and the two halves of a Step (R67, R129) -/

theorem stepBoth_of_cycle {doCycle : Bool} {r : Byte} {s u : State}
    (h : (if doCycle then cycle r s else .next s) = .next u) (doTick : Bool) :
    stepBoth doCycle doTick r s = .next (if doTick then tick u else u) := by
  rw [stepBoth, h]
  rfl

/-- The first half of a Step is a Cycle or nothing, and answers what those do. -/
theorem answers_firstHalf {P : State → Prop} {r : Byte} {s : State} (hc : Answers (cycle r s) P) (hs : P s)
    (doCycle : Bool) : Answers (if doCycle then cycle r s else .next s) P := by
  cases doCycle
  · exact ⟨s, rfl, hs⟩
  · exact hc

/-- A tick raises an audio-due signal that is not raised exactly when it takes ST of a running core from 1 (R130). -/
theorem audioDue_tick {s : State} (h : s.audioDue = false) :
    (tick s).audioDue = true ↔ s.status = .running ∧ s.st = 1 := by
  by_cases hs : s.status = .running
  · simp [tick_of_running hs, h, hs]
  · simp [tick_of_not_running hs, h, hs]

theorem st_tick_of_one {s : State} (hs : s.status = .running) (h : s.st = 1) : (tick s).st = 0 := by
  rw [tick_of_running hs, h]
  rfl

/-! ## What one update leaves unchanged -/

section
variable {ps : List Part} (s : State)

theorem onlyChanges_goto (a : Word) (h : .pc ∈ ps) : OnlyChanges ps s (s.goto a) :=
  fun p hp => by cases p <;> simp_all [Part.same]

theorem onlyChanges_advance (h : .pc ∈ ps) : OnlyChanges ps s s.advance := onlyChanges_goto s _ h

theorem onlyChanges_skipIf (c : Bool) (h : .pc ∈ ps) : OnlyChanges ps s (s.skipIf c) := by
  rw [State.skipIf_eq]
  exact onlyChanges_goto s _ h

theorem onlyChanges_regs (v : Vector Byte 16) (h : .v ∈ ps) : OnlyChanges ps s { s with v := v } :=
  fun p hp => by cases p <;> simp_all [Part.same]

theorem onlyChanges_setV (x : Reg) (b : Byte) (h : .v ∈ ps) : OnlyChanges ps s (s.setV x b) := onlyChanges_regs s _ h

theorem onlyChanges_setI (a : Word) (h : .i ∈ ps) : OnlyChanges ps s (s.setI a) :=
  fun p hp => by cases p <;> simp_all [Part.same]

theorem onlyChanges_setDt (b : Byte) (h : .dt ∈ ps) : OnlyChanges ps s (s.setDt b) :=
  fun p hp => by cases p <;> simp_all [Part.same]

theorem onlyChanges_setSt (b : Byte) (h : .st ∈ ps) : OnlyChanges ps s (s.setSt b) :=
  fun p hp => by cases p <;> simp_all [Part.same]

theorem onlyChanges_setFb (fb : FrameBuffer) (h : .fb ∈ ps) : OnlyChanges ps s (s.setFb fb) :=
  fun p hp => by cases p <;> simp_all [Part.same]

theorem onlyChanges_setMem (m : Memory) (h : .mem ∈ ps) : OnlyChanges ps s (s.setMem m) :=
  fun p hp => by cases p <;> simp_all [Part.same]

theorem onlyChanges_setKey (k : Fin 16) (d : Bool) (h : .key ∈ ps) : OnlyChanges ps s (s.setKey k d) :=
  fun p hp => by cases p <;> simp_all [Part.same]

theorem onlyChanges_afterKeyRead (k : Fin 16) (h : .key ∈ ps) : OnlyChanges ps s (s.afterKeyRead k) := by
  unfold State.afterKeyRead
  split
  · exact onlyChanges_setKey s k _ h
  · exact .refl ps s

theorem onlyChanges_pop (hsp : 0 < s.sp.val) (h : .sp ∈ ps) : OnlyChanges ps s (s.pop hsp) :=
  fun p hp => by cases p <;> simp_all [Part.same]

theorem onlyChanges_push (a : Word) (hsp : s.sp.val < 16) (h1 : .stack ∈ ps) (h2 : .sp ∈ ps) :
    OnlyChanges ps s (s.push a hsp) :=
  fun p hp => by cases p <;> simp_all [Part.same]

end

/-! ## The frame of every instruction (R20 to R30, R43) -/

/-- The instruction's fault, or a next state in which only PC and the pieces of `writesOf` differ. -/
def FaultsOrWritesOnly (i : Instr) (s : State) : Prop :=
  (∃ c a, exec i s = .next (s.raise c (encode i) a))
  ∨ Answers (exec i s) (OnlyChanges (.pc :: writesOf i) s)

/-- An instruction whose next state is an update of its own pieces, then PC + 2. -/
theorem faultsOrWritesOnly_advance {i : Instr} {s u : State} (h : exec i s = .next u.advance)
    (hu : OnlyChanges (.pc :: writesOf i) s u) : FaultsOrWritesOnly i s :=
  .inr ⟨_, h, hu.trans (onlyChanges_advance u (.head _))⟩

theorem faultsOrWritesOnly_skipOnKey {i : Instr} {s : State} {b : Byte} {wanted : Bool}
    (h : exec i s = skipOnKey (encode i) b wanted s) (hkey : .key ∈ Part.pc :: writesOf i) :
    FaultsOrWritesOnly i s := by
  rcases skipOnKey_cases (encode i) b wanted s with ⟨-, hs⟩ | ⟨k, -, hs⟩
  · exact .inl ⟨_, _, h.trans hs⟩
  · exact .inr ⟨_, h.trans hs, (onlyChanges_afterKeyRead s k hkey).trans (onlyChanges_skipIf _ _ (.head _))⟩

theorem faultsOrWritesOnly_storeAtI {i : Instr} {s : State} {bs : List Byte}
    (h : exec i s = storeAtI (encode i) bs s) (hmem : .mem ∈ Part.pc :: writesOf i) : FaultsOrWritesOnly i s := by
  rcases storeAtI_cases (encode i) bs s with ⟨a, -, hs⟩ | ⟨-, hs⟩
  · exact .inl ⟨_, _, h.trans hs⟩
  · exact faultsOrWritesOnly_advance (h.trans hs) (onlyChanges_setMem s _ hmem)

theorem exec_faultsOrWritesOnly (i : Instr) (s : State) : FaultsOrWritesOnly i s := by
  have hpc : Part.pc ∈ Part.pc :: writesOf i := .head _
  cases i with
  | cls => exact faultsOrWritesOnly_advance rfl (onlyChanges_setFb s _ (.tail _ (.head _)))
  | ret =>
    by_cases h : 0 < s.sp.val
    · exact .inr ⟨_, dif_pos h, (onlyChanges_pop s h (.tail _ (.head _))).trans (onlyChanges_goto _ _ hpc)⟩
    · exact .inl ⟨_, _, dif_neg h⟩
  | call nnn =>
    by_cases h : s.sp.val < 16
    · exact .inr ⟨_, dif_pos h, (onlyChanges_push s _ h (.tail _ (.head _)) (.tail _ (.tail _ (.head _)))).trans
        (onlyChanges_goto _ _ hpc)⟩
    · exact .inl ⟨_, _, dif_neg h⟩
  | drw x y n =>
    cases h : dataFault? s.i n.toNat with
    | some a => exact .inl ⟨.dataBounds, a, by simp only [exec, execDrw, h]⟩
    | none =>
      exact faultsOrWritesOnly_advance (by simp only [exec, execDrw, h]; rfl)
        ((onlyChanges_setFb s _ (.tail _ (.head _))).trans (onlyChanges_setV _ _ _ (.tail _ (.tail _ (.head _)))))
  | loadRegs x =>
    cases h : dataFault? s.i (x.val + 1) with
    | some a => exact .inl ⟨.dataBounds, a, by simp only [exec, execLoadRegs, h]⟩
    | none =>
      exact faultsOrWritesOnly_advance (by simp only [exec, execLoadRegs, h]; rfl)
        (onlyChanges_regs s _ (.tail _ (.head _)))
  | ldVxK x =>
    cases h : lowestKeyDown s.key with
    | some k =>
      exact faultsOrWritesOnly_advance (by simp only [exec, execLdVxK, h]; rfl)
        (onlyChanges_setV s x _ (.tail _ (.head _)))
    | none => exact .inr ⟨s, by simp only [exec, execLdVxK, h], .refl _ s⟩
  | ldB x | storeRegs x => exact faultsOrWritesOnly_storeAtI rfl (.tail _ (.head _))
  | skp x | sknp x => exact faultsOrWritesOnly_skipOnKey rfl (.tail _ (.head _))
  | seByte x _ | sneByte x _ | seReg x _ | sneReg x _ => exact .inr ⟨_, rfl, onlyChanges_skipIf s _ hpc⟩
  | jp nnn | jpV0 nnn => exact .inr ⟨_, rfl, onlyChanges_goto s _ hpc⟩
  | ldI _ | addI _ | ldF _ => exact faultsOrWritesOnly_advance rfl (onlyChanges_setI s _ (.tail _ (.head _)))
  | ldDtVx x => exact faultsOrWritesOnly_advance rfl (onlyChanges_setDt s _ (.tail _ (.head _)))
  | ldStVx x => exact faultsOrWritesOnly_advance rfl (onlyChanges_setSt s _ (.tail _ (.head _)))
  | ldByte x _ | addByte x _ | ldReg x _ | orReg x _ | andReg x _ | xorReg x _ | rnd x _ | ldVxDt x =>
    exact faultsOrWritesOnly_advance rfl (onlyChanges_setV s x _ (.tail _ (.head _)))
  | addReg x _ | subReg x _ | shrReg x _ | subnReg x _ | shlReg x _ =>
    exact faultsOrWritesOnly_advance rfl
      ((onlyChanges_setV s x _ (.tail _ (.head _))).trans (onlyChanges_setV _ _ _ (.tail _ (.head _))))

/-! ## The invariant of the machine -/

theorem coreInvariant_of_keepsControl {s t : State} (h : CoreInvariant s) (k : KeepsControl s t) : CoreInvariant t := by
  obtain ⟨hmem, hrest⟩ := h
  refine ⟨k.memWf hmem, ?_⟩
  rw [k.status, k.fault, k.params, k.err]
  exact hrest

/-- A fault that a cycle can raise is recorded consistently, whatever was recorded before (R122). -/
theorem coreInvariant_raise {s : State} (h : CoreInvariant s) {c : Cause} (hc : RaisedByCycle s c) (w : Word) (a : Nat) :
    CoreInvariant (s.raise c w a) := by
  obtain ⟨hmem, -, -, -, -, herr⟩ := h
  obtain ⟨hnone, hrom, hunknown⟩ := hc
  exact ⟨hmem, ⟨fun _ => hnone, fun _ => rfl⟩, hrom, hunknown, fun h0 => absurd h0 hnone, herr⟩

theorem CycleOutcome.coreInvariant {r : Byte} {s t : State} (ht : CycleOutcome r s t) (h : CoreInvariant s) :
    CoreInvariant t := by
  cases ht with
  | faults hc => exact coreInvariant_raise h hc _ _
  | passesOver _ _ hp =>
    obtain ⟨hmem, hhalted, hrom, hunknown, hzero, -⟩ := h
    exact ⟨hmem, hhalted, hrom, hunknown, hzero, fun hhalt => absurd (hp.symm.trans hhalt) (by decide)⟩
  | completes _ _ _ hk =>
    have hlatched : CoreInvariant (s.setRnd r) := h
    obtain ⟨hmem, hhalted, hrom, hunknown, hzero, -⟩ := coreInvariant_of_keepsControl hlatched hk
    exact ⟨hmem, hhalted, hrom, hunknown, hzero, fun _ => rfl⟩

theorem cycle_coreInvariant (r : Byte) {s : State} (h : CoreInvariant s) : Answers (cycle r s) CoreInvariant := by
  by_cases hs : s.status = .running
  · obtain ⟨t, hcycle, ht⟩ := cycle_outcome r hs
    exact ⟨t, hcycle, ht.coreInvariant h⟩
  · exact ⟨s, cycle_of_not_running hs, h⟩

theorem freeCycle_coreInvariant {s : State} (h : CoreInvariant s) : Answers (freeCycle s) CoreInvariant := by
  by_cases hs : s.status = .running
  · rw [freeCycle_of_running hs]
    exact cycle_coreInvariant _ h
  · exact ⟨s, freeCycle_of_not_running hs, h⟩

theorem tick_coreInvariant {s : State} (h : CoreInvariant s) : CoreInvariant (tick s) := by
  unfold tick
  split <;> exact h

/-- Only a core that runs is stopped, and it has no fault recorded (R139). -/
theorem shutdown_coreInvariant {s : State} (h : CoreInvariant s) : CoreInvariant (shutdown s) := by
  unfold shutdown
  split
  · rename_i hs
    obtain ⟨hmem, hhalted, hrest⟩ := h
    have hnone : ¬ s.fault.cause ≠ .noFault := fun hf => by simp [hhalted.mpr hf] at hs
    exact ⟨hmem, ⟨nofun, fun hf => absurd hf hnone⟩, hrest⟩
  all_goals exact h

theorem stepBoth_coreInvariant (doCycle doTick : Bool) (r : Byte) {s : State} (h : CoreInvariant s) :
    Answers (stepBoth doCycle doTick r s) CoreInvariant := by
  obtain ⟨u, hu, hinv⟩ := answers_firstHalf (cycle_coreInvariant r h) h doCycle
  refine ⟨_, stepBoth_of_cycle hu doTick, ?_⟩
  cases doTick
  · exact hinv
  · exact tick_coreInvariant hinv

theorem applyTransaction_coreInvariant (x : Transaction) {s : State} (h : CoreInvariant s) :
    Answers (applyTransaction x s) CoreInvariant := by
  cases x with
  | cycle r => exact cycle_coreInvariant r h
  | tick => exact ⟨_, rfl, tick_coreInvariant h⟩
  | step doCycle doTick r => exact stepBoth_coreInvariant doCycle doTick r h
  | keyWrite k down => exact ⟨_, rfl, h⟩
  | audioAck => exact ⟨_, rfl, h⟩
  | shutdown => exact ⟨_, rfl, shutdown_coreInvariant h⟩
  | read => exact ⟨s, rfl, h⟩

/-- Settles O60: each transaction, and the free cycle of an empty inbox, keeps the invariant, which speaks of no field that
taking the head of the inbox writes. -/
theorem everyStepKeepsTheInvariant : Obligations.EveryStepKeepsTheInvariant := by
  unfold Obligations.EveryStepKeepsTheInvariant
  intro s h
  cases hi : s.inbox with
  | nil => rw [step_of_empty_inbox hi]; exact freeCycle_coreInvariant h
  | cons x rest =>
    have hrest : CoreInvariant { s with inbox := rest } := h
    rw [step_of_inbox hi]
    exact applyTransaction_coreInvariant x hrest

/-! ## REDRAW and ERR after a cycle (R33, R66) -/

theorem isDrawing_eq_true {i : Instr} : isDrawing i = true ↔ i = .cls ∨ ∃ x y n, i = .drw x y n := by
  cases i <;> simp [isDrawing]

/-- Settles O12: a completed cycle passed an unknown word over or ran the instruction at PC; `readWord` is the two bytes at
PC by definition. -/
theorem completedCycleWritesRedrawAndErr : Obligations.CompletedCycleWritesRedrawAndErr := by
  unfold Obligations.CompletedCycleWritesRedrawAndErr
  intro r s hs
  obtain ⟨t, h, ht⟩ := cycle_outcome r hs
  refine ⟨t, h, fun hrun => ?_⟩
  simp only [← readWord_eq]
  cases ht with
  | faults _ => simp at hrun
  | passesOver hw hd _ => simp [← readWord_of_fetch hw, hd]
  | completes hw hd _ _ => simp [← readWord_of_fetch hw, hd, isDrawing_eq_true]

/-- Settles O16: the frame of every instruction, its fault spelled as the state it leaves. -/
theorem instructionsWriteOnlyTheirParts : Obligations.InstructionsWriteOnlyTheirParts := by
  unfold Obligations.InstructionsWriteOnlyTheirParts
  intro i s
  rcases exec_faultsOrWritesOnly i s with ⟨c, a, h⟩ | ⟨t, h, hframe⟩
  · exact ⟨_, h, .inr ⟨c, a, raise_eq_faulted s c _ a⟩⟩
  · exact ⟨t, h, .inl hframe⟩

/-! ## Keys (R27) -/

/-- Every key that is down in `t` was down in `s`. -/
def PressesNoKey (s t : State) : Prop := ∀ k : Fin 16, t.key[k] = true → s.key[k] = true

theorem pressesNoKey_of_key {s t : State} (h : t.key = s.key) : PressesNoKey s t := by
  intro k
  rw [h]
  exact id

theorem pressesNoKey_afterKeyRead (s : State) (k : Fin 16) : PressesNoKey s (s.afterKeyRead k) := by
  unfold State.afterKeyRead
  split
  · intro j hj
    simp only [State.setKey_key, Fin.getElem_fin, Vector.getElem_set] at hj ⊢
    split at hj
    · cases hj
    · exact hj
  · exact fun _ => id

theorem skipOnKey_pressesNoKey (w : Word) (b : Byte) (wanted : Bool) (s : State) :
    Answers (skipOnKey w b wanted s) (PressesNoKey s) := by
  rcases skipOnKey_cases w b wanted s with ⟨-, h⟩ | ⟨k, -, h⟩
  · exact ⟨_, h, fun _ => id⟩
  · refine ⟨_, h, ?_⟩
    rw [State.skipIf_eq]
    exact pressesNoKey_afterKeyRead s k

theorem exec_pressesNoKey_of_frame {i : Instr} (hi : .key ∉ writesOf i) (s : State) :
    Answers (exec i s) (PressesNoKey s) := by
  rcases exec_faultsOrWritesOnly i s with ⟨c, a, h⟩ | ⟨t, h, hframe⟩
  · exact ⟨_, h, fun _ => id⟩
  · exact ⟨t, h, pressesNoKey_of_key (hframe .key (by simp [hi]))⟩

/-- Settles O47: only the key skips write KEY, and they only clear. -/
theorem instructionsNeverPressKeys : Obligations.InstructionsNeverPressKeys := by
  unfold Obligations.InstructionsNeverPressKeys
  intro i s
  cases i with
  | skp x | sknp x => exact skipOnKey_pressesNoKey _ _ _ s
  | _ => exact exec_pressesNoKey_of_frame (by simp [writesOf]) s

/-! ## The audio-due signal (R30, R130) -/

/-- No transaction that makes no tick raises the signal. -/
theorem applyTransaction_raises_no_audioDue {x : Transaction} (htick : x ≠ .tick) (hstep : ∀ d r, x ≠ .step d true r)
    {s : State} (h : s.audioDue = false) : Answers (applyTransaction x s) fun t => t.audioDue = false := by
  have hcycle (r : Byte) : Answers (cycle r s) fun t => t.audioDue = false := h ▸ cycle_keepsAudioDue r s
  cases x with
  | cycle r => exact hcycle r
  | tick => exact absurd rfl htick
  | step doCycle doTick r =>
    cases doTick with
    | false =>
      obtain ⟨u, hu, hdue⟩ := answers_firstHalf (hcycle r) h doCycle
      exact ⟨u, stepBoth_of_cycle hu false, hdue⟩
    | true => exact absurd rfl (hstep doCycle r)
  | keyWrite k down => exact ⟨_, rfl, h⟩
  | audioAck => exact ⟨_, rfl, rfl⟩
  | shutdown => exact ⟨_, rfl, by unfold shutdown; split <;> exact h⟩
  | read => exact ⟨s, rfl, h⟩

theorem freeCycle_raises_no_audioDue {s : State} (h : s.audioDue = false) :
    Answers (freeCycle s) fun t => t.audioDue = false := by
  by_cases hs : s.status = .running
  · rw [freeCycle_of_running hs]
    exact h ▸ cycle_keepsAudioDue _ { s with drawn := s.drawn + 1 }
  · exact ⟨s, freeCycle_of_not_running hs, h⟩

/-- Settles O49: by the head of the inbox; a tick, alone or after a Step's cycle, is the one thing that raises the signal. -/
theorem audioDueOnlyFromTick : Obligations.AudioDueOnlyFromTick := by
  unfold Obligations.AudioDueOnlyFromTick
  intro s hdue
  cases hi : s.inbox with
  | nil =>
    obtain ⟨t, h, ht⟩ := freeCycle_raises_no_audioDue hdue
    exact ⟨t, (step_of_empty_inbox hi).trans h, by simp [ht]⟩
  | cons x rest =>
    rw [step_of_inbox hi]
    have hdue' : ({ s with inbox := rest } : State).audioDue = false := hdue
    by_cases htick : x = .tick
    · subst htick
      refine ⟨_, rfl, (audioDue_tick hdue').trans ⟨?_, ?_⟩⟩
      · rintro ⟨hs, hst⟩
        exact .inl ⟨rest, rfl, hs, hst, rfl, st_tick_of_one hs hst⟩
      · rintro (⟨_, -, hs, hst, -⟩ | ⟨_, _, _, _, hx, -⟩)
        · exact ⟨hs, hst⟩
        · cases hx
    by_cases hstep : ∃ d r, x = .step d true r
    · obtain ⟨doCycle, r, rfl⟩ := hstep
      obtain ⟨u, hu, hkeep⟩ := answers_firstHalf (cycle_keepsAudioDue r { s with inbox := rest }) rfl doCycle
      have hfirst : stepBoth doCycle false r { s with inbox := rest } = .next u := stepBoth_of_cycle hu false
      refine ⟨_, stepBoth_of_cycle hu true, (audioDue_tick (hkeep.trans hdue)).trans ⟨?_, ?_⟩⟩
      · rintro ⟨hs, hst⟩
        exact .inr ⟨doCycle, r, rest, u, rfl, hfirst, hs, hst, rfl, st_tick_of_one hs hst⟩
      · rintro (⟨_, hx, -⟩ | ⟨_, _, _, v, hx, hv, hs, hst, -⟩)
        · cases hx
        · cases hx
          obtain rfl : u = v := Host.Outcome.next.inj (hfirst.symm.trans hv)
          exact ⟨hs, hst⟩
    · obtain ⟨t, h, ht⟩ :=
        applyTransaction_raises_no_audioDue htick (fun d r hx => hstep ⟨d, r, hx⟩) hdue'
      refine ⟨t, h, ?_⟩
      simp only [ht, Bool.false_eq_true, false_iff]
      rintro (⟨_, hx, -⟩ | ⟨d, r, _, _, hx, -⟩)
      · exact htick (List.cons.inj hx).left
      · exact hstep ⟨d, r, (List.cons.inj hx).left⟩

/-! ## Dead stack entries (R23, R24, R78, R87) -/

/-- The stack replaced. -/
def State.setStack (s : State) (k : Vector Word 16) : State := { s with stack := k }

theorem skipIf_setStack (s : State) (k : Vector Word 16) (c : Bool) :
    (s.setStack k).skipIf c = (s.skipIf c).setStack k := by
  cases c <;> rfl

theorem afterKeyRead_setStack (s : State) (k : Vector Word 16) (j : Fin 16) :
    (s.setStack k).afterKeyRead j = (s.afterKeyRead j).setStack k := by
  unfold State.afterKeyRead
  rw [apply_ite (State.setStack · k)]
  rfl

theorem skipOnKey_setStack (w : Word) (b : Byte) (wanted : Bool) (s : State) (k : Vector Word 16) :
    skipOnKey w b wanted (s.setStack k) = mapNext (·.setStack k) (skipOnKey w b wanted s) := by
  unfold skipOnKey
  cases keyOperand? b with
  | none => rfl
  | some j =>
    simp only [mapNext, ← skipIf_setStack, ← afterKeyRead_setStack]
    rfl

theorem storeAtI_setStack (w : Word) (bs : List Byte) (s : State) (k : Vector Word 16) :
    storeAtI w bs (s.setStack k) = mapNext (·.setStack k) (storeAtI w bs s) := by
  simp only [storeAtI, State.setStack]
  cases dataFault? s.i bs.length <;> rfl

/-- Only 2NNN and 00EE look at the stack: any other instruction runs alike on every stack. -/
theorem exec_setStack {i : Instr} (hcall : ∀ nnn, i ≠ .call nnn) (hret : i ≠ .ret) (s : State) (k : Vector Word 16) :
    exec i (s.setStack k) = mapNext (·.setStack k) (exec i s) := by
  cases i with
  | call nnn => exact absurd rfl (hcall nnn)
  | ret => exact absurd rfl hret
  | seByte _ _ | sneByte _ _ | seReg _ _ | sneReg _ _ => exact congrArg Host.Outcome.next (skipIf_setStack s k _)
  | skp _ | sknp _ => exact skipOnKey_setStack _ _ _ s k
  | ldB _ | storeRegs _ => exact storeAtI_setStack _ _ s k
  | drw x y n =>
    simp only [exec, execDrw, State.setStack]
    cases dataFault? s.i n.toNat <;> rfl
  | loadRegs x =>
    simp only [exec, execLoadRegs, State.setStack]
    cases dataFault? s.i (x.val + 1) <;> rfl
  | ldVxK x =>
    simp only [exec, execLdVxK, State.setStack]
    cases lowestKeyDown s.key <;> rfl
  | _ => rfl

theorem exec_keepsStack {i : Instr} (hcall : ∀ nnn, i ≠ .call nnn) (hret : i ≠ .ret) (s : State) :
    Answers (exec i s) fun t => t.stack = s.stack ∧ t.sp = s.sp := by
  rcases exec_faultsOrWritesOnly i s with ⟨c, a, h⟩ | ⟨t, h, hframe⟩
  · exact ⟨_, h, rfl, rfl⟩
  · have hwrites : .stack ∉ writesOf i ∧ .sp ∉ writesOf i := by cases i <;> simp_all [writesOf]
    exact ⟨t, h, hframe .stack (by simp [hwrites]), hframe .sp (by simp [hwrites])⟩

/-- The instruction leaves states that agree but for the stack, and whose stacks agree below the SP after it. -/
def GoesOnAlike (i : Instr) (s : State) (k : Vector Word 16) : Prop :=
  ∃ t k', exec i s = .next t ∧ exec i (s.setStack k) = .next (t.setStack k')
    ∧ ∀ j : Fin 16, j.val < t.sp.val → k'[j] = t.stack[j]

section
variable {s : State} {k : Vector Word 16} (hk : ∀ j : Fin 16, j.val < s.sp.val → k[j] = s.stack[j])
include hk

theorem goesOnAlike_of_stack_unread {i : Instr} (hcall : ∀ nnn, i ≠ .call nnn) (hret : i ≠ .ret) :
    GoesOnAlike i s k := by
  obtain ⟨t, h, hstack, hsp⟩ := exec_keepsStack hcall hret s
  refine ⟨t, k, h, by rw [exec_setStack hcall hret, h]; rfl, ?_⟩
  rw [hstack, hsp]
  exact hk

/-- The entry a call writes is the only one that the new SP adds to the live ones. -/
theorem goesOnAlike_call (nnn : Addr) : GoesOnAlike (.call nnn) s k := by
  by_cases h : s.sp.val < 16
  · refine ⟨_, k.set s.sp.val s.pc h, dif_pos h, dif_pos h, fun j hj => ?_⟩
    simp only [State.goto_stack, State.push_stack, State.goto_sp, State.push_sp, Fin.getElem_fin, Vector.getElem_set]
      at hj ⊢
    split
    · rfl
    · exact hk j (by omega)
  · exact ⟨_, k, dif_neg h, dif_neg h, hk⟩

/-- The entry a return reads lies below SP. -/
theorem goesOnAlike_ret : GoesOnAlike .ret s k := by
  by_cases h : 0 < s.sp.val
  · have htop : (s.setStack k).top h = s.top h := hk ⟨s.sp.val - 1, by omega⟩ (by simp; omega)
    refine ⟨(s.pop h).goto (s.top h + 2), k, dif_pos h, ?_, fun j hj => hk j ?_⟩
    · rw [← htop]
      exact dif_pos h
    · simp only [State.goto_sp, State.pop_sp] at hj
      omega
  · exact ⟨_, k, dif_neg h, dif_neg h, hk⟩

end

/-- Settles O55: by instruction; only the call and the return look at the stack. -/
theorem deadStackEntriesUnobserved : Obligations.DeadStackEntriesUnobserved := by
  unfold Obligations.DeadStackEntriesUnobserved
  intro i s k hk
  cases i with
  | call nnn => exact goesOnAlike_call hk nnn
  | ret => exact goesOnAlike_ret hk
  | _ => exact goesOnAlike_of_stack_unread hk nofun nofun

/-! ## Construction (R35, R46, R141) -/

theorem construct_eq_ok {rom : List Byte} {font : Vector Byte 80} {p : Params} {s : State}
    (h : construct rom font p = .ok s) :
    rom.length ≤ 3583 ∧ s = { State.reset with mem := constructMemory rom font, params := p } := by
  unfold construct at h
  split at h
  · rename_i hfits
    have hlen : rom.length ≤ Config.romMax := of_decide_eq_true hfits
    exact ⟨hlen, (Except.ok.inj h).symm⟩
  · cases h

theorem resetByte_of_ge {a : Nat} (h : 80 ≤ a) : resetByte a = 0 := by
  have hlen : defaultFont.length ≤ a := h
  simp [resetByte, Config.fontBase, hlen]

/-- The font fits into an empty memory. -/
theorem wf_fontMemory (font : Vector Byte 80) : (Memory.writeBytes [] Config.fontBase font.toList).wf = true :=
  Memory.wf_writeBytes rfl (by simp [Config.fontBase, Config.memTop])

section
variable {rom : List Byte} (font : Vector Byte 80) (hfits : rom.length ≤ 3583)
include hfits

theorem rom_inside_memory : Config.romBase + rom.length ≤ Config.memTop + 1 := by
  simp only [Config.romBase, Config.memTop]
  omega

theorem wf_constructMemory : (constructMemory rom font).wf = true :=
  Memory.wf_writeBytes (wf_fontMemory font) (rom_inside_memory hfits)

/-- The memory map of R46: the ROM, the font, and the bytes of an empty memory elsewhere. -/
theorem read_constructMemory (a : Nat) :
    (constructMemory rom font).read a =
      if 0x200 ≤ a ∧ a < 0x200 + rom.length then rom.getD (a - 0x200) 0
      else if a < 80 then font.toList.getD a 0 else resetByte a := by
  rw [constructMemory, Memory.read_writeBytes (wf_fontMemory font) (rom_inside_memory hfits),
    Memory.read_writeBytes rfl (by simp [Config.fontBase, Config.memTop])]
  simp [Config.romBase, Config.fontBase]

end

/-- Settles O59: the font and the ROM fit into memory, and the rest is the reset state. -/
theorem invariantAtConstruct : Obligations.InvariantAtConstruct := by
  unfold Obligations.InvariantAtConstruct
  intro rom font p s h
  obtain ⟨hfits, rfl⟩ := construct_eq_ok h
  obtain ⟨-, hhalted, hrom, -, hzero, -⟩ := resetIsTheEmptyRomCore.right
  exact ⟨wf_constructMemory font hfits, hhalted, hrom, nofun, hzero, fun _ => rfl⟩

/-- Settles O57: the memory map, range by range; the rest is the reset state. -/
theorem constructedCore : Obligations.ConstructedCore := by
  unfold Obligations.ConstructedCore
  intro rom font p s h
  obtain ⟨hfits, rfl⟩ := construct_eq_ok h
  have hregs : ∀ x, State.reset.getV x = 0 := by decide
  have hstack : ∀ j : Fin 16, State.reset.stack[j] = 0 := fun j => by simp [State.reset]
  have hkeys : ∀ j : Fin 16, State.reset.key[j] = false := fun j => by simp [State.reset]
  refine ⟨fun k hk => ?_, fun k hk => ?_, fun a hfont _ hrom => ?_, rfl, rfl, rfl, rfl, hregs, rfl, hstack, hkeys,
    FrameBuffer.cell_clear, rfl, rfl, rfl, rfl, rfl, rfl⟩
  · rw [read_constructMemory font hfits, if_neg (by omega), if_pos hk]
    simp [hk]
  · rw [read_constructMemory font hfits, if_pos (by omega)]
    simp [hk]
  · rw [read_constructMemory font hfits, if_neg (by omega), if_neg (by omega), resetByte_of_ge hfont]

/-! ## One transaction (R31, R36, R63) -/

theorem complete_setRnd (i : Instr) (r : Byte) (t : State) :
    (complete i t).setRnd r =
      if t.status = .running then { t with redraw := isDrawing i, err := .noReport, rnd := r } else { t with rnd := r } := by
  unfold complete
  split <;> simp_all [State.setRnd]

theorem cycle_of_decodeWord {s : State} (hs : s.status = .running) (hpc : s.pc.toNat + 1 ≤ Config.memTop) {i : Instr}
    (hd : decodeWord (s.mem.readWord s.pc.toNat) = .ok i) (r : Byte) : cycle r s = runInstr i r s := by
  simp only [cycle, hs, fetch_eq_ok hpc, hd]

/-- Settles O9: the head of the inbox is applied by definition; a Cycle whose word decodes is `runInstr`, and what that
writes after the instruction depends on whether the core still runs. -/
theorem stepAppliesTheNextTransaction : Obligations.StepAppliesTheNextTransaction := by
  unfold Obligations.StepAppliesTheNextTransaction
  refine ⟨fun s x rest h => step_of_inbox h, fun s r i hs hpc hd => ?_⟩
  have hfetch : s.pc.toNat + 1 ≤ Config.memTop := by rw [memTop_eq]; omega
  calc applyTransaction (.cycle r) s
    _ = runInstr i r s := cycle_of_decodeWord hs hfetch hd r
    _ = _ := by simp only [runInstr, complete_setRnd]; rfl

theorem stepBoth_of_not_running {s : State} (h : s.status ≠ .running) (doCycle doTick : Bool) (r : Byte) :
    stepBoth doCycle doTick r s = .next s := by
  have hfirst : (if doCycle then cycle r s else .next s) = .next s := by
    rw [cycle_of_not_running h, ite_self]
  rw [stepBoth_of_cycle hfirst, tick_of_not_running h, ite_self]

/-- Settles O52: each of the four is the identity outside RUNNING. -/
theorem onlyARunningCoreRuns : Obligations.OnlyARunningCoreRuns := by
  unfold Obligations.OnlyARunningCoreRuns
  intro s h
  exact ⟨fun _ => cycle_of_not_running h, congrArg Host.Outcome.next (tick_of_not_running h),
    stepBoth_of_not_running h, fun hi => (step_of_empty_inbox hi).trans (freeCycle_of_not_running h)⟩

/-! ## VF as an operand of the 8XYn family (R88, R103) -/

theorem toNat_flagByte (b : Bool) : (flagByte b).toNat = b.toNat := by cases b <;> rfl

theorem toNat_flagByte_addCarry (a b : Byte) : (flagByte (addCarry a b)).toNat = (a.toNat + b.toNat) / 256 := by
  have ha := a.isLt
  have hb := b.isLt
  rw [toNat_flagByte, addCarry]
  by_cases h : a.toNat + b.toNat > 255
  · rw [decide_eq_true h, Bool.toNat_true]
    omega
  · rw [decide_eq_false h, Bool.toNat_false]
    omega

theorem flagByte_notBorrow (a b : Byte) : flagByte (notBorrow a b) = if a.toNat ≥ b.toNat then 1 else 0 := by
  by_cases h : b.toNat > a.toNat
  · rw [if_neg (by omega), notBorrow, decide_eq_true h]
    rfl
  · rw [if_pos (by omega), notBorrow, decide_eq_false h]
    rfl

theorem toNat_flagByte_rightBitOut (b : Byte) : (flagByte (rightBitOut b)).toNat = b.toNat % 2 := by
  rw [toNat_flagByte, rightBitOut, BitVec.getLsbD, Nat.toNat_testBit]
  omega

theorem toNat_flagByte_leftBitOut (b : Byte) : (flagByte (leftBitOut b)).toNat = b.toNat / 128 := by
  have hb := b.isLt
  rw [toNat_flagByte, leftBitOut, BitVec.getLsbD, Nat.toNat_testBit]
  omega

theorem writeReg_getV (x : Reg) (b : Byte) (s : State) : Answers (writeReg x b s) fun t => t.getV x = b :=
  ⟨_, rfl, (writesReg_setV x b s).left⟩

theorem writeReg_keepsVf {x : Reg} (hx : x ≠ Reg.vf) (b : Byte) (s : State) :
    Answers (writeReg x b s) fun t => t.getV x = b ∧ t.getV Reg.vf = s.getV Reg.vf := by
  obtain ⟨hwritten, -, hkept, -⟩ := writesReg_setV x b s
  exact ⟨_, rfl, hwritten, hkept Reg.vf hx.symm⟩

/-- The flag is written last: VF holds it whatever the destination, and VX holds the result unless it is VF (R88). -/
theorem writeRegFlag_getV (x : Reg) (res : Byte) (flag : Bool) (s : State) :
    Answers (writeRegFlag x res flag s) fun t => (x ≠ Reg.vf → t.getV x = res) ∧ t.getV Reg.vf = flagByte flag :=
  ⟨_, rfl, fun hx => by simp [State.getV_setResultFlag, hx], by simp [State.getV_setResultFlag]⟩

section
variable (x y : Reg) (s : State)

theorem exec_addReg_getV : Answers (exec (.addReg x y) s) fun t =>
    (x ≠ Reg.vf → t.getV x = s.getV x + s.getV y)
    ∧ (t.getV Reg.vf).toNat = ((s.getV x).toNat + (s.getV y).toNat) / 256 :=
  (writeRegFlag_getV x _ _ s).mono fun _ ⟨hres, hflag⟩ => ⟨hres, by rw [hflag, toNat_flagByte_addCarry]⟩

theorem exec_subReg_getV : Answers (exec (.subReg x y) s) fun t =>
    (x ≠ Reg.vf → t.getV x = s.getV x - s.getV y)
    ∧ t.getV Reg.vf = if (s.getV x).toNat ≥ (s.getV y).toNat then 1 else 0 :=
  (writeRegFlag_getV x _ _ s).mono fun _ ⟨hres, hflag⟩ => ⟨hres, by rw [hflag, flagByte_notBorrow]⟩

theorem exec_subnReg_getV : Answers (exec (.subnReg x y) s) fun t =>
    (x ≠ Reg.vf → t.getV x = s.getV y - s.getV x)
    ∧ t.getV Reg.vf = if (s.getV y).toNat ≥ (s.getV x).toNat then 1 else 0 :=
  (writeRegFlag_getV x _ _ s).mono fun _ ⟨hres, hflag⟩ => ⟨hres, by rw [hflag, flagByte_notBorrow]⟩

theorem exec_shrReg_getV : Answers (exec (.shrReg x y) s) fun t =>
    (x ≠ Reg.vf → (t.getV x).toNat = (s.getV y).toNat / 2) ∧ (t.getV Reg.vf).toNat = (s.getV y).toNat % 2 :=
  (writeRegFlag_getV x _ _ s).mono fun _ ⟨hres, hflag⟩ =>
    ⟨fun hx => by rw [hres hx, BitVec.toNat_ushiftRight, Nat.shiftRight_eq_div_pow],
      by rw [hflag, toNat_flagByte_rightBitOut]⟩

theorem exec_shlReg_getV : Answers (exec (.shlReg x y) s) fun t =>
    (x ≠ Reg.vf → (t.getV x).toNat = (s.getV y).toNat * 2 % 256) ∧ (t.getV Reg.vf).toNat = (s.getV y).toNat / 128 :=
  (writeRegFlag_getV x _ _ s).mono fun _ ⟨hres, hflag⟩ =>
    ⟨fun hx => by rw [hres hx, BitVec.toNat_shiftLeft, Nat.shiftLeft_eq], by rw [hflag, toNat_flagByte_leftBitOut]⟩

end

/-- Settles O32: a result that is not followed by a flag stays in VF; a flag is written over it. -/
theorem flagRegisterAsOperand : Obligations.FlagRegisterAsOperand := by
  unfold Obligations.FlagRegisterAsOperand
  intro s
  refine ⟨fun y _ => ?destination, fun x hx => ?source, ?ldBoth, ?orBoth, ?andBoth, ?xorBoth, ?addBoth, ?subBoth,
    ?shrBoth, ?subnBoth, ?shlBoth⟩
  case destination =>
    exact ⟨writeReg_getV _ _ s, writeReg_getV _ _ s, writeReg_getV _ _ s, writeReg_getV _ _ s,
      (exec_addReg_getV _ y s).mono fun _ => And.right, (exec_subReg_getV _ y s).mono fun _ => And.right,
      (exec_shrReg_getV _ y s).mono fun _ => And.right, (exec_subnReg_getV _ y s).mono fun _ => And.right,
      (exec_shlReg_getV _ y s).mono fun _ => And.right⟩
  case source =>
    exact ⟨writeReg_keepsVf hx _ s, writeReg_keepsVf hx _ s, writeReg_keepsVf hx _ s, writeReg_keepsVf hx _ s,
      (exec_addReg_getV x _ s).mono fun _ => And.imp_left (· hx),
      (exec_subReg_getV x _ s).mono fun _ => And.imp_left (· hx),
      (exec_shrReg_getV x _ s).mono fun _ => And.imp_left (· hx),
      (exec_subnReg_getV x _ s).mono fun _ => And.imp_left (· hx),
      (exec_shlReg_getV x _ s).mono fun _ => And.imp_left (· hx)⟩
  case ldBoth => exact writeReg_getV _ _ s
  case orBoth => exact (writeReg_getV _ _ s).mono fun _ h => h.trans BitVec.or_self
  case andBoth => exact (writeReg_getV _ _ s).mono fun _ h => h.trans BitVec.and_self
  case xorBoth => exact (writeReg_getV _ _ s).mono fun _ h => h.trans BitVec.xor_self
  case addBoth => exact (exec_addReg_getV _ _ s).mono fun _ h => by rw [h.right, two_mul]
  case subBoth => exact (exec_subReg_getV _ _ s).mono fun _ h => h.right.trans (if_pos le_rfl)
  case shrBoth => exact (exec_shrReg_getV _ _ s).mono fun _ => And.right
  case subnBoth => exact (exec_subnReg_getV _ _ s).mono fun _ h => h.right.trans (if_pos le_rfl)
  case shlBoth => exact (exec_shlReg_getV _ _ s).mono fun _ => And.right

end Sys2Proof.Machine
end

section
/-! PROOFS. Memory: the two bytes of an instruction decode to it, the fetch and the data accesses are bounded by 0xFFF (R41,
R42), an instruction reads its own block at I and no other byte (R43), and a stored word is the one fetched (R51). First,
the rows of the opcode map are disjoint (R57), so that the row an instruction is encoded by is the one that decodes it. -/

namespace Sys2Proof

/-! ## Decoding gives the encoded instruction back (R57, R58) -/

/-- Two rows fix some bit that both masks keep differently, so no word is in both (R57). -/
def EncodingRow.Apart (r q : EncodingRow) : Prop := r.value &&& q.mask ≠ q.value &&& r.mask

theorem EncodingRow.Apart.not_rowMatches {r q : EncodingRow} {w : Word} (h : r.Apart q) (hq : rowMatches q w = true) :
    ¬ rowMatches r w = true := by
  intro hr
  have hr : w &&& r.mask = r.value := beq_iff_eq.mp hr
  have hq : w &&& q.mask = q.value := beq_iff_eq.mp hq
  apply h
  rw [← hr, ← hq, BitVec.and_assoc, BitVec.and_comm r.mask, BitVec.and_assoc]

theorem encodingTable_pairwise_apart : encodingTable.Pairwise EncodingRow.Apart := by
  unfold EncodingRow.Apart
  decide

/-- Among rows that are apart, the one that matches a word is the one found. -/
theorem find?_rowMatches {rows : List EncodingRow} (hrows : rows.Pairwise EncodingRow.Apart) {r : EncodingRow}
    (hr : r ∈ rows) {w : Word} (hw : rowMatches r w = true) : rows.find? (rowMatches · w) = some r := by
  induction hrows with
  | nil => cases hr
  | cons hhead _ ih =>
    rcases List.mem_cons.mp hr with rfl | hr
    · exact List.find?_cons_of_pos hw
    · have hskip := (hhead r hr).not_rowMatches hw
      exact (List.find?_cons_of_neg (p := (rowMatches · w)) hskip).trans (ih hr)

/-- Every instruction's word is in a row of the opcode map that builds it again (R55, R57). -/
theorem opcodeRow_statement (i : Instr) : Laws.OpcodeRow.Statement i := by
  cases i with
  | cls => exact Laws.OpcodeRow.cls
  | ret => exact Laws.OpcodeRow.ret
  | jp nnn => exact Laws.OpcodeRow.jp nnn
  | call nnn => exact Laws.OpcodeRow.call nnn
  | seByte x nn => exact Laws.OpcodeRow.seByte x nn
  | sneByte x nn => exact Laws.OpcodeRow.sneByte x nn
  | seReg x y => exact Laws.OpcodeRow.seReg x y
  | ldByte x nn => exact Laws.OpcodeRow.ldByte x nn
  | addByte x nn => exact Laws.OpcodeRow.addByte x nn
  | ldReg x y => exact Laws.OpcodeRow.ldReg x y
  | orReg x y => exact Laws.OpcodeRow.orReg x y
  | andReg x y => exact Laws.OpcodeRow.andReg x y
  | xorReg x y => exact Laws.OpcodeRow.xorReg x y
  | addReg x y => exact Laws.OpcodeRow.addReg x y
  | subReg x y => exact Laws.OpcodeRow.subReg x y
  | shrReg x y => exact Laws.OpcodeRow.shrReg x y
  | subnReg x y => exact Laws.OpcodeRow.subnReg x y
  | shlReg x y => exact Laws.OpcodeRow.shlReg x y
  | sneReg x y => exact Laws.OpcodeRow.sneReg x y
  | ldI nnn => exact Laws.OpcodeRow.ldI nnn
  | jpV0 nnn => exact Laws.OpcodeRow.jpV0 nnn
  | rnd x nn => exact Laws.OpcodeRow.rnd x nn
  | drw x y n => exact Laws.OpcodeRow.drw x y n
  | skp x => exact Laws.OpcodeRow.skp x
  | sknp x => exact Laws.OpcodeRow.sknp x
  | ldVxDt x => exact Laws.OpcodeRow.ldVxDt x
  | ldVxK x => exact Laws.OpcodeRow.ldVxK x
  | ldDtVx x => exact Laws.OpcodeRow.ldDtVx x
  | ldStVx x => exact Laws.OpcodeRow.ldStVx x
  | addI x => exact Laws.OpcodeRow.addI x
  | ldF x => exact Laws.OpcodeRow.ldF x
  | ldB x => exact Laws.OpcodeRow.ldB x
  | storeRegs x => exact Laws.OpcodeRow.storeRegs x
  | loadRegs x => exact Laws.OpcodeRow.loadRegs x

/-- Decoding the word of an instruction gives the instruction back, with every operand (R55 to R58). -/
theorem decodeWord_encode (i : Instr) : decodeWord (encode i) = .ok i := by
  obtain ⟨-, r, hmem, hmatch, hbuild⟩ := opcodeRow_statement i
  rw [decodeWord, find?_rowMatches encodingTable_pairwise_apart hmem hmatch]
  exact congrArg Except.ok hbuild

/-! ## The two bytes of a word (R40, R53) -/

theorem decodeBytes_bytesOfWord {w : Word} {i : Instr} (h : decodeWord w = .ok i) (rest : List Byte) :
    decodeBytes (bytesOfWord w ++ rest) = .ok (i, rest) := by
  have hword : wordOfBytes (w.extractLsb' 8 8) (w.extractLsb' 0 8) = w := BitVec.extractLsb'_append_extractLsb'
  simp only [bytesOfWord, List.cons_append, List.nil_append, decodeBytes, hword, h]

theorem toNat_wordOfBytes (hi lo : Byte) : (wordOfBytes hi lo).toNat = hi.toNat * 256 + lo.toNat := by
  rw [wordOfBytes, BitVec.toNat_append, ← Nat.shiftLeft_add_eq_or_of_lt lo.isLt, Nat.shiftLeft_eq]

theorem bytesOfWord_wordOfBytes (hi lo : Byte) : bytesOfWord (wordOfBytes hi lo) = [hi, lo] := by
  rw [bytesOfWord, wordOfBytes, BitVec.extractLsb'_append_eq_left, BitVec.extractLsb'_append_eq_right]

/-- Settles O6: an instruction's word decodes to it, and a word is its two bytes put together. -/
theorem instructionBytesDecode : Obligations.InstructionBytesDecode :=
  ⟨fun i => decodeBytes_bytesOfWord (decodeWord_encode i),
    fun hi lo => ⟨toNat_wordOfBytes hi lo, bytesOfWord_wordOfBytes hi lo⟩⟩

end Sys2Proof

namespace Sys2Proof.Machine

/-! ## The bounds of the fetch (R42) -/

/-- A cycle whose fetch would reach above 0xFFF is the fetch's fault, whatever memory holds (R42). -/
theorem cycle_above_memory (r : Byte) {s : State} (hs : s.status = .running) (hpc : Config.memTop < s.pc.toNat + 1) :
    cycle r s = .next (s.raise .fetchBounds 0 (max s.pc.toNat (Config.memTop + 1))) := by
  simp only [cycle, hs, fetch_eq_error hpc]

/-- The fetch's fault is none of the fault kinds of the instructions (R124). -/
theorem faultKind_ne_fetchBounds (i : Instr) : faultKind i ≠ some .fetchBounds := by
  cases i <;> simp [faultKind]

/-- Settles O10: the fetch answers the lowest address above 0xFFF, and an instruction either faults by its own kind or keeps
the record. -/
theorem fetchAboveMemoryFaults : Obligations.FetchAboveMemoryFaults := by
  unfold Obligations.FetchAboveMemoryFaults
  refine ⟨fun r s hs hpc => ?_, fun i s hcause => ?_⟩
  · have haddr : max s.pc.toNat (Config.memTop + 1) = if 0xFFF < s.pc.toNat then s.pc.toNat else s.pc.toNat + 1 := by
      rw [memTop_eq]
      split <;> omega
    rw [cycle_above_memory r hs (by rw [memTop_eq]; omega), haddr, raise_eq_faulted]
  · rcases exec_cases i s with ⟨c, a, hkind, h⟩ | ⟨t, h, hkeeps⟩
    · refine ⟨_, h, fun hc => faultKind_ne_fetchBounds i ?_⟩
      rw [hkind, ← hc, State.raise_fault]
    · exact ⟨t, h, fun hc => hcause (hkeeps.fault ▸ hc)⟩

/-! ## The bounds of the data accesses (R41) -/

/-- An instruction whose block at I does not fit into memory is its data fault and nothing else. -/
theorem exec_of_dataFault {i : Instr} {s : State} {a : Nat} (h : dataFault? s.i (dataCount i) = some a) :
    exec i s = .next (s.raise .dataBounds (encode i) a) := by
  cases i with
  | drw x y n =>
    have h : dataFault? s.i n.toNat = some a := h
    simp only [exec, execDrw, h]
  | loadRegs x =>
    have h : dataFault? s.i (x.val + 1) = some a := h
    simp only [exec, execLoadRegs, h]
  | ldB x =>
    have h : dataFault? s.i (decimalDigits (s.getV x)).length = some a := h
    simp only [exec, execLdB, storeAtI, h]
  | storeRegs x =>
    have h : dataFault? s.i (regBlock s.v x).length = some a := by rwa [length_regBlock]
    simp only [exec, execStoreRegs, storeAtI, h]
  | _ => exact absurd (dataFault?_eq_some.mp h).left (Nat.lt_irrefl 0)

/-- Settles O40: with the block's end above 0xFFF, the bounds check answers I or 0x1000, whichever is higher. -/
theorem dataFaultNamesTheLowestAddress : Obligations.DataFaultNamesTheLowestAddress := by
  unfold Obligations.DataFaultNamesTheLowestAddress
  rintro i s ⟨k, hk, habove⟩
  have hmax : max s.i.toNat (Config.memTop + 1) = s.i.toNat + (0x1000 - s.i.toNat) := by rw [memTop_eq]; omega
  have hfault : dataFault? s.i (dataCount i) = some (s.i.toNat + (0x1000 - s.i.toNat)) :=
    dataFault?_eq_some.mpr ⟨by omega, by rw [memTop_eq]; omega, hmax.symm⟩
  exact ⟨0x1000 - s.i.toNat, by omega, by omega, fun j hj => by omega, exec_of_dataFault hfault⟩

/-! ## Reads stay in the block at I (R43) -/

theorem readBytes_congr {m n : Memory} {base count : Nat}
    (h : ∀ a, base ≤ a → a < base + count → m.read a = n.read a) : m.readBytes base count = n.readBytes base count := by
  induction count generalizing base with
  | zero => rfl
  | succ count ih =>
    rw [Memory.readBytes, Memory.readBytes, h base (by omega) (by omega), ih fun a h1 h2 => h a (by omega) (by omega)]

theorem loadBlock_congr (v : Vector Byte 16) {m n : Memory} {base : Nat} {x : Reg}
    (h : ∀ a, base ≤ a → a < base + (x.val + 1) → m.read a = n.read a) :
    loadBlock v m base x = loadBlock v n base x := by
  refine Vector.ext fun k hk => ?_
  have hload (m : Memory) := getElem_loadBlock v m base x ⟨k, hk⟩
  refine (hload m).trans (Eq.trans ?_ (hload n).symm)
  split
  · rename_i hkx
    have hkx : k ≤ x.val := hkx
    exact h (base + k) (by omega) (by omega)
  · rfl

theorem skipIf_setMem (s : State) (m : Memory) (c : Bool) : (s.setMem m).skipIf c = (s.skipIf c).setMem m := by
  cases c <;> rfl

theorem afterKeyRead_setMem (s : State) (m : Memory) (k : Fin 16) :
    (s.setMem m).afterKeyRead k = (s.afterKeyRead k).setMem m := by
  unfold State.afterKeyRead
  rw [apply_ite (State.setMem · m)]
  rfl

/-- The instruction leaves, on the memory `m` in place of that of `s`, a state that differs in memory at most. -/
def AgreesButForMemory (i : Instr) (s : State) (m : Memory) : Prop :=
  ∃ t m', exec i s = .next t ∧ exec i (s.setMem m) = .next (t.setMem m')

theorem agreesButForMemory_skipOnKey {i : Instr} {w : Word} {b : Byte} {wanted : Bool} {s : State} {m : Memory}
    (h : exec i s = skipOnKey w b wanted s) (hm : exec i (s.setMem m) = skipOnKey w b wanted (s.setMem m)) :
    AgreesButForMemory i s m := by
  unfold skipOnKey at h hm
  cases hk : keyOperand? b with
  | none =>
    rw [hk] at h hm
    exact ⟨_, m, h, hm⟩
  | some k =>
    rw [hk] at h hm
    refine ⟨_, m, h, hm.trans (congrArg Host.Outcome.next ?_)⟩
    rw [afterKeyRead_setMem, skipIf_setMem]
    rfl

/-- A store writes bytes that do not come from memory, at addresses that do not either. -/
theorem agreesButForMemory_storeAtI {i : Instr} {w : Word} {bs : List Byte} {s : State} {m : Memory}
    (h : exec i s = storeAtI w bs s) (hm : exec i (s.setMem m) = storeAtI w bs (s.setMem m)) :
    AgreesButForMemory i s m := by
  unfold storeAtI at h hm
  rw [State.setMem_i] at hm
  cases hf : dataFault? s.i bs.length with
  | some a =>
    rw [hf] at h hm
    exact ⟨_, m, h, hm⟩
  | none =>
    rw [hf] at h hm
    exact ⟨_, m.writeBytes s.i.toNat bs, h, hm⟩

/-- Only DXYN and FX65 read bytes of memory, and those are the block at I. -/
theorem exec_agreesButForMemory {i : Instr} {s : State} {m : Memory}
    (hblock : ∀ a, s.i.toNat ≤ a → a < s.i.toNat + dataCount i → m.read a = s.mem.read a) : AgreesButForMemory i s m := by
  cases i with
  | drw x y n =>
    cases hf : dataFault? s.i n.toNat with
    | some a => exact ⟨_, m, exec_of_dataFault hf, exec_of_dataFault hf⟩
    | none =>
      have hrows := readBytes_congr hblock
      simp only [dataCount] at hrows
      simp only [AgreesButForMemory, exec, execDrw, State.setMem_i, State.setMem_mem, hf, hrows]
      exact ⟨_, m, rfl, rfl⟩
  | loadRegs x =>
    cases hf : dataFault? s.i (x.val + 1) with
    | some a => exact ⟨_, m, exec_of_dataFault hf, exec_of_dataFault hf⟩
    | none =>
      have hregs := loadBlock_congr s.v hblock
      simp only [AgreesButForMemory, exec, execLoadRegs, State.setMem_i, State.setMem_v, State.setMem_mem, hf, hregs]
      exact ⟨_, m, rfl, rfl⟩
  | ldVxK x =>
    simp only [AgreesButForMemory, exec, execLdVxK, State.setMem_key]
    cases lowestKeyDown s.key <;> exact ⟨_, m, rfl, rfl⟩
  | ret =>
    by_cases h : 0 < s.sp.val
    · exact ⟨_, m, dif_pos h, dif_pos h⟩
    · exact ⟨_, m, dif_neg h, dif_neg h⟩
  | call nnn =>
    by_cases h : s.sp.val < 16
    · exact ⟨_, m, dif_pos h, dif_pos h⟩
    · exact ⟨_, m, dif_neg h, dif_neg h⟩
  | ldB x | storeRegs x => exact agreesButForMemory_storeAtI rfl rfl
  | skp x | sknp x => exact agreesButForMemory_skipOnKey rfl rfl
  | seByte _ _ | sneByte _ _ | seReg _ _ | sneReg _ _ =>
    exact ⟨_, m, rfl, congrArg Host.Outcome.next (skipIf_setMem s m _)⟩
  | _ => exact ⟨_, m, rfl, rfl⟩

/-- Settles O41: by instruction; a state with its memory replaced agrees with itself in everything else. -/
theorem dataReadsStayInTheBlock : Obligations.DataReadsStayInTheBlock := by
  unfold Obligations.DataReadsStayInTheBlock
  intro i s m hblock
  obtain ⟨t, m', h, hm⟩ := exec_agreesButForMemory hblock
  exact ⟨t, t.setMem m', h, hm, rfl⟩

/-! ## A word stored over the next instruction (R51, R108, R148) -/

section
variable {x : Reg} {s : State} (hfits : s.i.toNat + x.val ≤ Config.memTop)
include hfits

/-- FX55 with its block inside memory (R108). -/
theorem exec_storeRegs_of_fits :
    exec (.storeRegs x) s = .next (s.setMem (s.mem.writeBytes s.i.toNat (regBlock s.v x))).advance := by
  have hbounds : dataFault? s.i (regBlock s.v x).length = none :=
    dataFault?_eq_none.mpr (.inr (by rw [length_regBlock]; omega))
  simp only [exec, execStoreRegs, storeAtI, hbounds]

/-- Register k is the byte at I + k of the block that FX55 stores. -/
theorem read_writeBytes_regBlock (hwf : s.mem.wf = true) {k : Reg} (hk : k ≤ x) :
    (s.mem.writeBytes s.i.toNat (regBlock s.v x)).read (s.i.toNat + k.val) = s.getV k := by
  have hkx : k.val ≤ x.val := hk
  have hblock := length_regBlock s.v x
  rw [Memory.read_writeBytes hwf (by omega), if_pos (by omega), Nat.add_sub_cancel_left]
  exact getD_regBlock s.v hk

end

/-- Settles O42: PC + 2 is I, where the store put V0 and V1. -/
theorem storedWordIsFetchedNext : Obligations.StoredWordIsFetchedNext := by
  unfold Obligations.StoredWordIsFetchedNext
  intro x s hwf hx hpc hfits
  have hV0 := read_writeBytes_regBlock hfits hwf (Fin.zero_le x)
  have hV1 := read_writeBytes_regBlock hfits hwf (k := 1) hx
  refine ⟨_, exec_storeRegs_of_fits hfits, ?_⟩
  have hinside : (s.pc + 2).toNat + 1 ≤ Config.memTop := by rw [← hpc, memTop_eq]; omega
  refine (fetch_eq_ok hinside).trans (congrArg Except.ok ?_)
  rw [readWord_eq, State.advance_pc, State.setMem_pc, ← hpc]
  exact congrArg₂ (· ++ ·) hV0 hV1

end Sys2Proof.Machine
end

section
/-! PROOFS. The decoder over all words: the fields are the bits of the word (R54), encoding and decoding are inverse (R55
to R58), the rows of the opcode map are disjoint (R57) and the words outside them are six spaces (R59). Then the step that
decodes: the instruction or the unknown word at PC (R60, R63), and the two halves of a Step (R67). -/

namespace Sys2Proof

/-! ## The fields of a word (R54) -/

section
variable (w : Word)

theorem toNat_fieldsOf_family : (fieldsOf w).family.toNat = w.toNat / 4096 := by
  have hw := w.isLt
  simp only [fieldsOf, BitVec.extractLsb'_toNat, Nat.shiftRight_eq_div_pow]
  omega

theorem toNat_fieldsOf_x : (fieldsOf w).x.toNat = w.toNat / 256 % 16 := by
  simp only [fieldsOf, BitVec.extractLsb'_toNat, Nat.shiftRight_eq_div_pow]

theorem toNat_fieldsOf_y : (fieldsOf w).y.toNat = w.toNat / 16 % 16 := by
  simp only [fieldsOf, BitVec.extractLsb'_toNat, Nat.shiftRight_eq_div_pow]

theorem toNat_fieldsOf_nn : (fieldsOf w).nn.toNat = w.toNat % 256 := by
  simp only [fieldsOf, BitVec.extractLsb'_toNat, Nat.shiftRight_zero]

theorem toNat_fieldsOf_nnn : (fieldsOf w).nnn.toNat = w.toNat % 4096 := by
  simp only [fieldsOf, BitVec.extractLsb'_toNat, Nat.shiftRight_zero]

theorem toNat_fieldsOf_n : (fieldsOf w).n.toNat = w.toNat % 16 := by
  simp only [fieldsOf, BitVec.extractLsb'_toNat, Nat.shiftRight_zero]

end

/-- Settles O2: field by field. -/
theorem fieldsAreTheBitsOfTheWord : Obligations.FieldsAreTheBitsOfTheWord := fun w =>
  ⟨toNat_fieldsOf_family w, toNat_fieldsOf_x w, toNat_fieldsOf_y w, toNat_fieldsOf_nn w, toNat_fieldsOf_nnn w,
    toNat_fieldsOf_n w⟩

/-! ## Encoding and decoding are inverse (R55 to R58) -/

/-- Settles O4: an instruction's word is in the row that builds the instruction again, and in no other. -/
theorem decodeOfEncode : Obligations.DecodeOfEncode := fun i _ => decodeWord_encode i

/-- Settles O5: each row of the opcode map is strict. -/
theorem encodeOfDecode : Obligations.EncodeOfDecode := fun _ _ => encode_of_decodeWord

/-- Settles O3: of two rows at different places, the later one excludes the earlier. -/
theorem opcodeRowsAreDisjoint : Obligations.OpcodeRowsAreDisjoint := by
  unfold Obligations.OpcodeRowsAreDisjoint
  intro w j k hj hk hwj hwk
  have hapart := List.pairwise_iff_getElem.mp encodingTable_pairwise_apart
  rcases Nat.lt_trichotomy j k with hlt | heq | hgt
  · exact absurd hwj ((hapart j k hj hk hlt).not_rowMatches hwk)
  · exact heq
  · exact absurd hwk ((hapart k j hk hj hgt).not_rowMatches hwj)

/-! ## What the masks of the opcode map keep of a word (R54, R57) -/

/-- A word is its four nibbles put together. -/
theorem encodeXYN_fieldsOf_self (w : Word) :
    encodeXYN (fieldsOf w).family (regOf (fieldsOf w).x) (regOf (fieldsOf w).y) (fieldsOf w).n = w := by
  refine BitVec.eq_of_getLsbD_eq fun k hk => ?_
  simp only [encodeXYN, regField_regOf, fieldsOf, BitVec.getLsbD_append, BitVec.getLsbD_extractLsb']
  interval_cases k <;> simp

theorem encodeX_fieldsOf_self (w : Word) :
    encodeX (fieldsOf w).family (regOf (fieldsOf w).x) (fieldsOf w).nn = w := by
  refine BitVec.eq_of_getLsbD_eq fun k hk => ?_
  simp only [encodeX, regField_regOf, fieldsOf, BitVec.getLsbD_append, BitVec.getLsbD_extractLsb']
  interval_cases k <;> simp

theorem and_familyMask (w : Word) : w &&& 0xF000 = encodeXYN (fieldsOf w).family 0 0 0 := by
  conv_lhs => rw [← encodeXYN_fieldsOf_self w]
  exact encodeXYN_mask_family _ _ _ _

theorem and_familyNibbleMask (w : Word) : w &&& 0xF00F = encodeXYN (fieldsOf w).family 0 0 (fieldsOf w).n := by
  conv_lhs => rw [← encodeXYN_fieldsOf_self w]
  exact encodeXYN_mask _ _ _ _

theorem and_familyByteMask (w : Word) : w &&& 0xF0FF = encodeX (fieldsOf w).family 0 (fieldsOf w).nn := by
  conv_lhs => rw [← encodeX_fieldsOf_self w]
  exact encodeX_mask _ _ _

theorem toNat_append_eq_add {m n : Nat} (a : BitVec m) (b : BitVec n) :
    (a ++ b).toNat = a.toNat * 2 ^ n + b.toNat := by
  rw [BitVec.toNat_append, ← Nat.shiftLeft_add_eq_or_of_lt b.isLt, Nat.shiftLeft_eq]

theorem toNat_encodeXYN_zero (f c : Nibble) : (encodeXYN f 0 0 c).toNat = f.toNat * 4096 + c.toNat := by
  rw [encodeXYN, toNat_append_eq_add, toNat_append_eq_add, toNat_append_eq_add]
  simp [regField, Nat.mul_assoc]

theorem toNat_encodeX_zero (f : Nibble) (c : Byte) : (encodeX f 0 c).toNat = f.toNat * 4096 + c.toNat := by
  rw [encodeX, toNat_append_eq_add, toNat_append_eq_add]
  simp [regField, Nat.mul_assoc]

/-! ## The unknown words (R57 to R59)

A word is the row's when it agrees with the row's value in the fields that the mask keeps: all, the family alone, or the
family with the low nibble or the low byte. The hypothesis on the value says that it has no bit outside the mask. -/

section
variable {v : Word} (w : Word) (b : Fields → Instr)

theorem rowMatches_fullMask : rowMatches ⟨v, 0xFFFF, b⟩ w = true ↔ w = v := by
  have hmask : w &&& 0xFFFF = w := BitVec.and_allOnes
  rw [rowMatches, hmask, beq_iff_eq]

theorem rowMatches_familyMask (hv : v &&& 0xF000 = v) :
    rowMatches ⟨v, 0xF000, b⟩ w = true ↔ w.toNat / 4096 = v.toNat / 4096 := by
  conv_lhs => rw [rowMatches, beq_iff_eq, ← hv, and_familyMask, and_familyMask, ← BitVec.toNat_inj]
  simp only [toNat_encodeXYN_zero, toNat_fieldsOf_family]
  omega

theorem rowMatches_familyNibbleMask (hv : v &&& 0xF00F = v) :
    rowMatches ⟨v, 0xF00F, b⟩ w = true ↔ w.toNat / 4096 = v.toNat / 4096 ∧ w.toNat % 16 = v.toNat % 16 := by
  conv_lhs => rw [rowMatches, beq_iff_eq, ← hv, and_familyNibbleMask, and_familyNibbleMask, ← BitVec.toNat_inj]
  simp only [toNat_encodeXYN_zero, toNat_fieldsOf_family, toNat_fieldsOf_n]
  omega

theorem rowMatches_familyByteMask (hv : v &&& 0xF0FF = v) :
    rowMatches ⟨v, 0xF0FF, b⟩ w = true ↔ w.toNat / 4096 = v.toNat / 4096 ∧ w.toNat % 256 = v.toNat % 256 := by
  conv_lhs => rw [rowMatches, beq_iff_eq, ← hv, and_familyByteMask, and_familyByteMask, ← BitVec.toNat_inj]
  simp only [toNat_encodeX_zero, toNat_fieldsOf_family, toNat_fieldsOf_nn]
  omega

end

theorem decodeWord_eq_unknown_iff {w : Word} :
    decodeWord w = .error (.unknownOpcode w) ↔ ∀ r ∈ encodingTable, ¬ rowMatches r w = true := by
  rw [← List.find?_eq_none (p := (rowMatches · w)), decodeWord]
  cases encodingTable.find? (rowMatches · w) <;> simp

/-- Settles O7: that no row matches is read off the table as conditions on the fields, then compared family by family. The
space of a family excludes what its rows hold; only family 8 lists instead the nibbles outside its rows. -/
theorem unknownWordsAreTheSixSpaces : Obligations.UnknownWordsAreTheSixSpaces := by
  unfold Obligations.UnknownWordsAreTheSixSpaces
  intro w
  rw [decodeWord_eq_unknown_iff]
  simp only [encodingTable, List.cons_append, List.nil_append, List.forall_mem_cons]
  simp (disch := decide) only [rowMatches_fullMask, rowMatches_familyMask, rowMatches_familyNibbleMask,
    rowMatches_familyByteMask]
  by_cases h0 : w.toNat / 4096 = 0
  · simp [h0]
  · have hcls : w ≠ 0x00E0#16 := fun h => h0 (h ▸ rfl)
    have hret : w ≠ 0x00EE#16 := fun h => h0 (h ▸ rfl)
    have hfamily : w.toNat / 4096 < 16 := by omega
    interval_cases w.toNat / 4096 <;> simp [hcls, hret]
    -- left: the low nibbles of family 8
    omega

end Sys2Proof

namespace Sys2Proof.Machine

/-! ## The step that decodes (R60, R63) -/

/-- Settles O14: an instruction answers its fault or a next state, and a step what its transaction answers. -/
theorem everyInstructionAndStepAnswersANextState : Obligations.EveryInstructionAndStepAnswersANextState := by
  unfold Obligations.EveryInstructionAndStepAnswersANextState
  refine ⟨fun i s => ?_, fun s => ?_⟩
  · rcases exec_cases i s with ⟨c, a, -, h⟩ | ⟨t, h, -⟩
    · exact ⟨_, h⟩
    · exact ⟨t, h⟩
  · obtain ⟨t, h, -⟩ := step_keepsParameters s
    exact ⟨t, h⟩

/-- Settles O8: with no transaction waiting, a step is the Cycle that O9 describes, with the next free byte. -/
theorem stepRunsTheDecodedInstruction : Obligations.StepRunsTheDecodedInstruction := by
  unfold Obligations.StepRunsTheDecodedInstruction
  intro s i hinbox hs hpc hd
  obtain ⟨-, hcycle⟩ := stepAppliesTheNextTransaction
  rw [step_of_empty_inbox hinbox, freeCycle_of_running hs]
  exact hcycle { s with drawn := s.drawn + 1 } (Config.randomByte s.drawn) i hs hpc hd

theorem cycle_of_decodeWord_error {s : State} (hs : s.status = .running) (hpc : s.pc.toNat + 1 ≤ Config.memTop)
    {e : DecodeError} (hd : decodeWord (s.mem.readWord s.pc.toNat) = .error e) (r : Byte) :
    cycle r s = .next (unknownWord (s.mem.readWord s.pc.toNat) s) := by
  simp only [cycle, hs, fetch_eq_ok hpc, hd]

theorem unknownWord_of_continueRun {s : State} (h : s.params.unknownPolicy = .continueRun) (w : Word) :
    unknownWord w s = { s with err := .unknownOpcode s.pc w, redraw := false, pc := s.pc + 2 } := by
  rw [unknownWord, h]

theorem unknownWord_of_halt {s : State} (h : s.params.unknownPolicy = .halt) (w : Word) :
    unknownWord w s = faulted s .unknownOpcode w 0 := by
  rw [unknownWord, h]
  exact raise_eq_faulted s _ w 0

/-- Settles O11: the fetched word is the two bytes at PC by definition, and the policy selects what it leaves. -/
theorem unknownWordFollowsThePolicy : Obligations.UnknownWordFollowsThePolicy := by
  unfold Obligations.UnknownWordFollowsThePolicy
  rintro r s w hs hpc rfl hd
  have hcycle := cycle_of_decodeWord_error hs (by rw [memTop_eq]; omega) hd r
  refine ⟨fun hp => ?_, fun hp => ?_⟩
  · rw [hcycle, unknownWord_of_continueRun hp, readWord_eq]
  · rw [hcycle, unknownWord_of_halt hp, readWord_eq]

/-! ## The two halves of a Step (R67, R124) -/

/-- Settles O50: a Step is its first half, then its tick, and a tick leaves a core that does not run alone. -/
theorem stepIsCycleThenTick : Obligations.StepIsCycleThenTick := by
  unfold Obligations.StepIsCycleThenTick
  intro r s
  obtain ⟨t, h, -⟩ := cycle_keepsParameters r s
  have hfirst : (if true then cycle r s else .next s) = .next t := h
  have hboth : stepBoth true true r s = .next (tick t) := stepBoth_of_cycle hfirst true
  refine ⟨rfl, rfl, (stepBoth_of_cycle hfirst false).trans h.symm, t, h, hboth, fun hs => ?_⟩
  rw [hboth, tick_of_not_running hs]

end Sys2Proof.Machine
end

section
/-! PROOFS. The display: 00E0 (R70) and DXYN (R71 to R76). What DXYN does is said once, in terms of the cells that its
sprite covers (`exec_drw_drawsSprite`); the statements about drawing follow from that alone. -/

namespace Sys2Proof

/-- An instruction whose word is in the row decodes again, as every instruction's word does (R57). -/
theorem encodedAs_of_mask {value mask : Word} {i : Instr} (h : encode i &&& mask = value) : EncodedAs value mask i :=
  ⟨h, decodeWord_encode i⟩

theorem encodedAs_drw (x y : Reg) (n : Nibble) : EncodedAs 0xD000 0xF000 (.drw x y n) :=
  encodedAs_of_mask (encodeXYN_mask_family 0xD x y n)

end Sys2Proof

namespace Sys2Proof.Machine

/-- Settles O17: the empty framebuffer, then PC + 2. -/
theorem clearScreen : Obligations.ClearScreen := by
  unfold Obligations.ClearScreen
  refine ⟨encodedAs_of_mask rfl, fun s => ⟨_, rfl, FrameBuffer.cell_clear, rfl, ?_⟩⟩
  exact (onlyChanges_setFb s _ (.head _)).trans (onlyChanges_advance _ (.tail _ (.head _)))

/-! ## What DXYN does (R68, R69, R71, R72, R74) -/

theorem flagByte_eq_one {b : Bool} : flagByte b = 1 ↔ b = true := by cases b <;> decide

theorem flagByte_eq_zero {b : Bool} : flagByte b = 0 ↔ ¬ b = true := by cases b <;> decide

/-- The cells that DXYN's sprite has a 1 bit on, on the grid or off it. -/
def drwCells (x y : Reg) (n : Nibble) (s : State) : Nat → Nat → Bool :=
  spriteOn s.mem s.i.toNat (s.getV x).toNat (s.getV y).toNat n.toNat

/-- A sprite with its 1 bits on the cells `on` collides with the framebuffer: one of them is a cell of the grid that is 1
(R72). -/
def Collides (on : Nat → Nat → Bool) (fb : FrameBuffer) : Prop :=
  ∃ cx cy, cx < 64 ∧ cy < 32 ∧ on cx cy = true ∧ fb.cell cx cy = true

/-- A sprite with its 1 bits on the cells `on` was drawn: its cells on the grid are inverted, VF is the collision bit, and
PC is 2 more (R71, R72). -/
structure DrawsSprite (on : Nat → Nat → Bool) (s t : State) : Prop where
  cell    : ∀ cx cy, cx < 64 → cy < 32 → t.fb.cell cx cy = (s.fb.cell cx cy ^^ on cx cy)
  vf_one  : t.getV Reg.vf = 1 ↔ Collides on s.fb
  vf_zero : t.getV Reg.vf = 0 ↔ ¬ Collides on s.fb
  getV    : ∀ k, k ≠ Reg.vf → t.getV k = s.getV k
  pc      : t.pc = s.pc + 2
  frame   : OnlyChanges [.fb, .v, .pc] s t

section
variable (x y : Reg) (n : Nibble) (s : State)

/-- The canvas DXYN leaves: its sprite drawn on the framebuffer, with no collision before it (R71). -/
def drwCanvas : Canvas :=
  plotSprite (s.getV x).toNat (s.getV y).toNat (s.mem.readBytes s.i.toNat n.toNat) { fb := s.fb, collide := false }

theorem cell_drwCanvas {cx cy : Nat} (hx : cx < 64) (hy : cy < 32) :
    (drwCanvas x y n s).fb.cell cx cy = (s.fb.cell cx cy ^^ drwCells x y n s cx cy) := by
  rw [drwCanvas, cell_plotSprite, rowsOn_readBytes, drwCells]
  simp [hx, hy]

/-- A cell that is 1 is on the grid, so a sprite drawn on the framebuffer collides on the grid or nowhere. -/
theorem collide_drwCanvas : (drwCanvas x y n s).collide = true ↔ Collides (drwCells x y n s) s.fb := by
  simp only [drwCanvas, collide_plotSprite, rowsOn_readBytes, Collides, drwCells]
  constructor
  · rintro (h | ⟨cx, cy, hon, hcell⟩)
    · cases h
    · have hgrid : cx < 64 ∧ cy < 32 := by
        by_contra hoff
        rw [FrameBuffer.cell_off hoff] at hcell
        cases hcell
      exact ⟨cx, cy, hgrid.left, hgrid.right, hon, hcell⟩
  · rintro ⟨cx, cy, -, -, hon, hcell⟩
    exact .inr ⟨cx, cy, hon, hcell⟩

/-- DXYN with no rows, or with its rows inside memory: the canvas is written, VF last, and PC + 2 (R71, R74). -/
theorem exec_drw_of_fits (hfits : n = 0 ∨ s.i.toNat + n.toNat ≤ 0x1000) :
    exec (.drw x y n) s =
      .next ((s.setFb (drwCanvas x y n s).fb).setV Reg.vf (flagByte (drwCanvas x y n s).collide)).advance := by
  have hbounds : dataFault? s.i n.toNat = none := dataFault?_eq_none.mpr (hfits.imp_left (congrArg BitVec.toNat))
  simp only [exec, execDrw, hbounds, drwCanvas]

theorem exec_drw_drawsSprite (hfits : n = 0 ∨ s.i.toNat + n.toNat ≤ 0x1000) :
    Answers (exec (.drw x y n) s) (DrawsSprite (drwCells x y n s) s) := by
  obtain ⟨hvf, -, hkept, -⟩ := writesReg_setV Reg.vf (flagByte (drwCanvas x y n s).collide)
    (s.setFb (drwCanvas x y n s).fb)
  have hfb := onlyChanges_setFb (ps := [.fb, .v, .pc]) s (drwCanvas x y n s).fb (.head _)
  refine ⟨_, exec_drw_of_fits x y n s hfits, ?_⟩
  exact {
    cell := fun _ _ => cell_drwCanvas x y n s
    vf_one := by rw [hvf, flagByte_eq_one, collide_drwCanvas]
    vf_zero := by rw [hvf, flagByte_eq_zero, collide_drwCanvas]
    getV := hkept
    pc := rfl
    frame := (hfb.trans (onlyChanges_setV _ _ _ (.tail _ (.head _)))).trans
      (onlyChanges_advance _ (.tail _ (.tail _ (.head _)))) }

end

/-- Settles O18: the cells are those `spriteOn` gives. -/
theorem drawSprite : Obligations.DrawSprite := by
  unfold Obligations.DrawSprite
  intro x y n s hfits
  refine ⟨encodedAs_drw x y n, (exec_drw_drawsSprite x y n s hfits).mono fun t ht => ?_⟩
  exact ⟨ht.cell, ht.vf_one.mpr, ht.vf_zero.mpr, ht.getV, ht.pc, ht.frame⟩

/-! ## A sprite off the grid (R69, R73) -/

/-- The start coordinates are not reduced and a sprite extends right and down only (R69). -/
theorem spriteOn_eq_false_of_start {m : Memory} {base px py n : Nat} (hoff : 64 ≤ px ∨ 32 ≤ py ∨ n = 0) {cx cy : Nat}
    (hx : cx < 64) (hy : cy < 32) : spriteOn m base px py n cx cy = false := by
  refine Bool.eq_false_iff.mpr fun hon => ?_
  simp only [spriteOn, Bool.and_eq_true, decide_eq_true_eq] at hon
  obtain ⟨⟨⟨⟨hleft, -⟩, htop⟩, hbottom⟩, -⟩ := hon
  omega

/-- A sprite with no 1 bit on the grid leaves the framebuffer and collides with nothing. -/
theorem DrawsSprite.fb_of_off {on : Nat → Nat → Bool} {s t : State} (h : DrawsSprite on s t)
    (hoff : ∀ cx cy, cx < 64 → cy < 32 → on cx cy = false) : t.fb = s.fb ∧ t.getV Reg.vf = 0 := by
  refine ⟨FrameBuffer.eq_of_cell fun cx cy hx hy => ?_, h.vf_zero.mpr ?_⟩
  · rw [h.cell cx cy hx hy, hoff cx cy hx hy, Bool.xor_false]
  · rintro ⟨cx, cy, hx, hy, hon, -⟩
    rw [hoff cx cy hx hy] at hon
    cases hon

/-- Settles O19: none of the sprite's cells is on the grid. -/
theorem spriteOffGridDrawsNothing : Obligations.SpriteOffGridDrawsNothing := by
  unfold Obligations.SpriteOffGridDrawsNothing
  intro x y n s hfits hoff
  refine (exec_drw_drawsSprite x y n s hfits).mono fun t ht => ?_
  have hstart := hoff.imp_right (Or.imp_right (congrArg BitVec.toNat))
  obtain ⟨hfb, hvf⟩ := ht.fb_of_off fun _ _ => spriteOn_eq_false_of_start hstart
  exact ⟨hfb, hvf, ht.pc⟩

/-! ## The same sprite twice (R76) -/

/-- Inverting the same cells twice leaves each as it was. -/
theorem DrawsSprite.fb_of_twice {on : Nat → Nat → Bool} {s t u : State} (h : DrawsSprite on s t)
    (k : DrawsSprite on t u) : u.fb = s.fb := by
  refine FrameBuffer.eq_of_cell fun cx cy hx hy => ?_
  rw [k.cell cx cy hx hy, h.cell cx cy hx hy, Bool.xor_assoc, Bool.xor_self, Bool.xor_false]

/-- A draw leaves memory, I and the coordinates alone when neither is in VF, so the next one's sprite is the same. -/
theorem DrawsSprite.drwCells_eq {on : Nat → Nat → Bool} {s t : State} (h : DrawsSprite on s t) {x y : Reg}
    (hx : x ≠ Reg.vf) (hy : y ≠ Reg.vf) (n : Nibble) : drwCells x y n t = drwCells x y n s := by
  have hmem : ∀ a, t.mem.read a = s.mem.read a := h.frame .mem (by decide)
  have hi : t.i = s.i := h.frame .i (by decide)
  funext cx cy
  simp only [drwCells, spriteOn, hmem, hi, h.getV x hx, h.getV y hy]

/-- Settles O20: the second draw is of the same sprite, on the framebuffer that the first one left. -/
theorem drawTwiceRestores : Obligations.DrawTwiceRestores := by
  unfold Obligations.DrawTwiceRestores
  intro x y n s hx hy hfits
  obtain ⟨t, hst, ht⟩ := exec_drw_drawsSprite x y n s hfits
  have hi : t.i = s.i := ht.frame .i (by decide)
  obtain ⟨u, htu, hu⟩ := exec_drw_drawsSprite x y n t (hi ▸ hfits)
  rw [ht.drwCells_eq hx hy n] at hu
  exact ⟨t, u, hst, htu, ht.fb_of_twice hu, hu.vf_one⟩

end Sys2Proof.Machine
end

section
/-! PROOFS. Control flow: 00EE and 2NNN (R78, R80, R86), the jumps 1NNN and BNNN (R79, R85) and the four conditional
skips (R77, R81 to R84). -/

namespace Sys2Proof.Machine

/-! ## Return and call (R78, R80) -/

theorem exec_ret_of_pos {s : State} (h : 0 < s.sp.val) : exec .ret s = .next ((s.pop h).goto (s.top h + 2)) := dif_pos h

theorem exec_ret_of_empty {s : State} (h : s.sp = 0) : exec .ret s = .next (faulted s .stackUnderflow 0x00EE 0) :=
  dif_neg (by simp [h])

theorem exec_call_of_lt (nnn : Addr) {s : State} (h : s.sp.val < 16) :
    exec (.call nnn) s = .next ((s.push s.pc h).goto (addrOperand nnn)) := dif_pos h

theorem exec_call_of_full (nnn : Addr) {s : State} (h : s.sp.val = 16) :
    exec (.call nnn) s = .next (faulted s .stackOverflow (encode (.call nnn)) 0) :=
  dif_neg (by omega)

/-- A pop reads the entry that the last push wrote, and takes SP back to where it was before the push (R24). -/
theorem top_and_pop_of_push {s u : State} {a : Word} (h : s.sp.val < 16) (hstack : u.stack = (s.push a h).stack)
    (hsp : u.sp = (s.push a h).sp) : ∃ hpos : 0 < u.sp.val, u.top hpos = a ∧ (u.pop hpos).sp = s.sp := by
  have hval : u.sp.val = s.sp.val + 1 := congrArg Fin.val hsp
  refine ⟨by omega, ?_, Fin.ext ?_⟩
  · simp [State.top, hstack, hval]
  · simp [hval]

/-! ## Jump targets and skips (R56, R77) -/

theorem toNat_addrOperand (nnn : Addr) : (addrOperand nnn).toNat = nnn.toNat :=
  BitVec.toNat_setWidth_of_le (by decide)

theorem toNat_byteOperand (b : Byte) : (byteOperand b).toNat = b.toNat :=
  BitVec.toNat_setWidth_of_le (by decide)

/-- The largest sum is 0xFFF + 0xFF, so BNNN's target never wraps (R85). -/
theorem toNat_addrOperand_add_byteOperand (nnn : Addr) (b : Byte) :
    (addrOperand nnn + byteOperand b).toNat = nnn.toNat + b.toNat := by
  rw [BitVec.toNat_add_of_lt, toNat_addrOperand, toNat_byteOperand]
  rw [toNat_addrOperand, toNat_byteOperand]
  omega

section
variable {i : Instr} {s : State}

/-- An instruction that only moves PC to the target `a`. -/
theorem answers_goto {a : Word} (h : exec i s = .next (s.goto a)) {n : Nat} (ha : a.toNat = n) :
    Answers (exec i s) fun t => t.pc.toNat = n ∧ OnlyChanges [.pc] s t :=
  ⟨_, h, ha, onlyChanges_goto s a (.head _)⟩

/-- An instruction that only skips, on the condition `P` (R77). -/
theorem answers_skipIf {c : Bool} (h : exec i s = .next (s.skipIf c)) {P : Prop} [Decidable P] (hc : c = true ↔ P) :
    Answers (exec i s) fun t => t.pc = (if P then s.pc + 4 else s.pc + 2) ∧ OnlyChanges [.pc] s t := by
  refine ⟨_, h, ?_, onlyChanges_skipIf s c (.head _)⟩
  simp only [State.skipIf_eq, State.goto_pc, hc]

end

/-! ## The obligations -/

/-- Settles O21: SP above 0 pops, SP 0 faults. -/
theorem returnPopsTheStack : Obligations.ReturnPopsTheStack := by
  unfold Obligations.ReturnPopsTheStack
  refine ⟨encodedAs_of_mask rfl, fun s h => ⟨_, exec_ret_of_pos h, rfl, rfl, ?_⟩, fun s => exec_ret_of_empty⟩
  exact (onlyChanges_pop s h (.head _)).trans (onlyChanges_goto _ _ (.tail _ (.head _)))

/-- Settles O22: SP below 16 pushes PC, SP 16 faults. -/
theorem callPushesItsAddress : Obligations.CallPushesItsAddress := by
  unfold Obligations.CallPushesItsAddress
  intro nnn s
  refine ⟨encodedAs_of_mask (encodeA_mask 0x2 nnn), fun h => ?_, exec_call_of_full nnn⟩
  refine ⟨_, exec_call_of_lt nnn h, rfl, rfl, toNat_addrOperand nnn, ?_⟩
  exact (onlyChanges_push s _ h (.head _) (.tail _ (.head _))).trans
    (onlyChanges_goto _ _ (.tail _ (.tail _ (.head _))))

/-- Settles O23: the return pops the address that the call pushed. -/
theorem callThenReturnResumes : Obligations.CallThenReturnResumes := by
  unfold Obligations.CallThenReturnResumes
  intro nnn s h
  refine ⟨_, exec_call_of_lt nnn h, fun u hstack hsp => ?_⟩
  obtain ⟨hpos, htop, hpop⟩ := top_and_pop_of_push h hstack hsp
  exact ⟨_, exec_ret_of_pos hpos, congrArg (· + 2) htop, hpop⟩

/-- Settles O24: PC is the target, and BNNN's does not wrap. -/
theorem jumpsSetPc : Obligations.JumpsSetPc := by
  unfold Obligations.JumpsSetPc
  intro nnn s
  exact ⟨encodedAs_of_mask (encodeA_mask 0x1 nnn), encodedAs_of_mask (encodeA_mask 0xB nnn),
    answers_goto rfl (toNat_addrOperand nnn), answers_goto rfl (toNat_addrOperand_add_byteOperand nnn _)⟩

/-- Settles O25: the two conditions are equality and inequality with the byte. -/
theorem skipsOnByte : Obligations.SkipsOnByte := by
  unfold Obligations.SkipsOnByte
  intro x nn s
  exact ⟨encodedAs_of_mask (encodeXNN_mask 0x3 x nn), encodedAs_of_mask (encodeXNN_mask 0x4 x nn),
    answers_skipIf rfl beq_iff_eq, answers_skipIf rfl bne_iff_ne⟩

/-- Settles O26: the two conditions are equality and inequality of the registers. -/
theorem skipsOnRegister : Obligations.SkipsOnRegister := by
  unfold Obligations.SkipsOnRegister
  intro x y s
  exact ⟨encodedAs_of_mask (encodeXYN_mask 0x5 x y 0x0), encodedAs_of_mask (encodeXYN_mask 0x9 x y 0x0),
    answers_skipIf rfl beq_iff_eq, answers_skipIf rfl bne_iff_ne⟩

end Sys2Proof.Machine
end

section
/-! PROOFS. The register and ALU instructions 6XNN, 7XNN, 8XY0 to 8XYE and CXNN (R88 to R102): each is one of the two
shared writes, of a byte (`answers_writeReg`) or of a result and then its flag (`answers_writeRegFlag`); and CXNN is the
only instruction that reads the random byte of the cycle (R102). -/

namespace Sys2Proof.Machine

/-! ## The random byte of a cycle (R63, R102) -/

theorem skipIf_setRnd (s : State) (r : Byte) (c : Bool) : (s.setRnd r).skipIf c = (s.skipIf c).setRnd r := by
  cases c <;> rfl

theorem afterKeyRead_setRnd (s : State) (r : Byte) (k : Fin 16) :
    (s.setRnd r).afterKeyRead k = (s.afterKeyRead k).setRnd r := by
  unfold State.afterKeyRead
  rw [apply_ite (State.setRnd · r)]
  rfl

theorem skipOnKey_setRnd (w : Word) (b : Byte) (wanted : Bool) (s : State) (r : Byte) :
    skipOnKey w b wanted (s.setRnd r) = mapNext (·.setRnd r) (skipOnKey w b wanted s) := by
  unfold skipOnKey
  cases keyOperand? b with
  | none => rfl
  | some k =>
    simp only [mapNext, ← skipIf_setRnd, ← afterKeyRead_setRnd]
    rfl

theorem storeAtI_setRnd (w : Word) (bs : List Byte) (s : State) (r : Byte) :
    storeAtI w bs (s.setRnd r) = mapNext (·.setRnd r) (storeAtI w bs s) := by
  simp only [storeAtI, State.setRnd_i, State.setRnd_mem]
  cases dataFault? s.i bs.length <;> rfl

/-- Only CXNN looks at the random byte: any other instruction runs alike on every byte and carries it along. -/
theorem exec_setRnd {i : Instr} (hrnd : ∀ x nn, i ≠ .rnd x nn) (s : State) (r : Byte) :
    exec i (s.setRnd r) = mapNext (·.setRnd r) (exec i s) := by
  cases i with
  | rnd x nn => exact absurd rfl (hrnd x nn)
  | ret =>
    simp only [exec, execRet, apply_dite (mapNext _)]
    rfl
  | call nnn =>
    simp only [exec, execCall, apply_dite (mapNext _)]
    rfl
  | seByte _ _ | sneByte _ _ | seReg _ _ | sneReg _ _ => exact congrArg Host.Outcome.next (skipIf_setRnd s r _)
  | skp _ | sknp _ => exact skipOnKey_setRnd _ _ _ s r
  | ldB _ | storeRegs _ => exact storeAtI_setRnd _ _ s r
  | drw x y n =>
    simp only [exec, execDrw, State.setRnd_i]
    cases dataFault? s.i n.toNat <;> rfl
  | loadRegs x =>
    simp only [exec, execLoadRegs, State.setRnd_i]
    cases dataFault? s.i (x.val + 1) <;> rfl
  | ldVxK x =>
    simp only [exec, execLdVxK, State.setRnd_key]
    cases lowestKeyDown s.key <;> rfl
  | _ => rfl

theorem mapNext_mapNext (f g : State → State) (r : Result) : mapNext f (mapNext g r) = mapNext (fun t => f (g t)) r := by
  cases r <;> rfl

/-- The end of a cycle writes the latch back, so it does not matter what the latch held during the cycle. -/
theorem complete_setRnd_setRnd (i : Instr) (r q : Byte) (t : State) :
    (complete i (t.setRnd r)).setRnd q = (complete i t).setRnd q := by
  simp only [complete_setRnd]
  rfl

/-- The byte drops out of the execution of any instruction but CXNN. -/
theorem runInstr_of_rnd_unread {i : Instr} (hrnd : ∀ x nn, i ≠ .rnd x nn) (r : Byte) (s : State) :
    runInstr i r s = mapNext (fun t => (complete i t).setRnd s.rnd) (exec i s) := by
  simp only [runInstr, exec_setRnd hrnd, mapNext_mapNext, complete_setRnd_setRnd]

theorem getV_complete (i : Instr) (t : State) (k : Reg) : (complete i t).getV k = t.getV k := by
  unfold complete
  split <;> rfl

theorem runInstr_rnd_getV (x : Reg) (nn r : Byte) (s : State) :
    Answers (runInstr (.rnd x nn) r s) fun t => t.getV x = r &&& nn := by
  obtain ⟨t, h, ht⟩ := writeReg_getV x (r &&& nn) (s.setRnd r)
  exact ⟨(complete (.rnd x nn) t).setRnd s.rnd, congrArg (mapNext _) h, (getV_complete _ t x).trans ht⟩

/-- Settles O34: the byte drops out of every execution but CXNN's, and the mask 0xFF keeps every bit of it. -/
theorem randomByteReadOnlyByRnd : Obligations.RandomByteReadOnlyByRnd := by
  unfold Obligations.RandomByteReadOnlyByRnd
  refine ⟨fun i r r' s hrnd => ?_, fun x r s => ?_⟩
  · rw [runInstr_of_rnd_unread hrnd r, runInstr_of_rnd_unread hrnd r']
  · exact (runInstr_rnd_getV x 0xFF r s).mono fun _ h => h.trans BitVec.and_allOnes

/-! ## The two shared writes (R20, R88) -/

section
variable {i : Instr} {x : Reg} {s : State}

/-- An instruction that writes the byte `b` to VX. -/
theorem answers_writeReg {b : Byte} (h : exec i s = writeReg x b s) : Answers (exec i s) (WritesReg x b s) :=
  ⟨_, h, writesReg_setV x b s⟩

/-- The same, with the byte named by the register that holds it afterwards. -/
theorem answers_writeReg_getV {b : Byte} (h : exec i s = writeReg x b s) :
    Answers (exec i s) fun t => WritesReg x (t.getV x) s t ∧ t.getV x = b := by
  refine (answers_writeReg h).mono fun t ht => ?_
  obtain rfl : t.getV x = b := ht.left
  exact ⟨ht, rfl⟩

/-- An instruction that writes a result to VX and then a flag to VF, given as the numbers that the two bytes hold. -/
theorem answers_writeRegFlag {b : Byte} {c : Bool} (h : exec i s = writeRegFlag x b c s) {res flag : Nat}
    (hres : b.toNat = res) (hflag : (flagByte c).toNat = flag) : Answers (exec i s) (WritesRegFlag x res flag s) := by
  subst hres hflag
  exact ⟨_, h, writesRegFlag_setResultFlag x b c s⟩

end

/-! ## Carry and borrow as numbers (R95, R96, R98) -/

theorem toNat_flagByte_decide (p : Prop) [Decidable p] : (flagByte (decide p)).toNat = if p then 1 else 0 := by
  by_cases h : p
  · rw [decide_eq_true h, if_pos h]
    rfl
  · rw [decide_eq_false h, if_neg h]
    rfl

theorem toNat_flagByte_addCarry_eq_ite (a b : Byte) :
    (flagByte (addCarry a b)).toNat = if a.toNat + b.toNat > 255 then 1 else 0 :=
  toNat_flagByte_decide _

theorem toNat_flagByte_notBorrow (a b : Byte) :
    (flagByte (notBorrow a b)).toNat = if b.toNat > a.toNat then 0 else 1 := by
  rw [notBorrow, ← decide_not, toNat_flagByte_decide, ite_not]

theorem toNat_sub_byte (a b : Byte) : (a - b).toNat = (a.toNat + 256 - b.toNat) % 256 := by
  have hb := b.isLt
  rw [BitVec.toNat_sub]
  omega

/-! ## The obligations -/

/-- Settles O27: the sum of two bytes is their sum modulo 256, and neither instruction writes a flag. -/
theorem immediateLoadAndAdd : Obligations.ImmediateLoadAndAdd := by
  unfold Obligations.ImmediateLoadAndAdd
  intro x nn s
  exact ⟨encodedAs_of_mask (encodeXNN_mask 0x6 x nn), encodedAs_of_mask (encodeXNN_mask 0x7 x nn),
    answers_writeReg rfl,
    (answers_writeReg_getV rfl).mono fun _ ⟨hwrites, hb⟩ => ⟨hwrites, by rw [hb, BitVec.toNat_add]⟩⟩

/-- Settles O28: each writes one byte, whose bits are those of the operands. -/
theorem assignAndLogic : Obligations.AssignAndLogic := by
  unfold Obligations.AssignAndLogic
  intro x y s
  exact ⟨encodedAs_of_mask (encodeXYN_mask 0x8 x y 0x0), encodedAs_of_mask (encodeXYN_mask 0x8 x y 0x1),
    encodedAs_of_mask (encodeXYN_mask 0x8 x y 0x2), encodedAs_of_mask (encodeXYN_mask 0x8 x y 0x3),
    answers_writeReg rfl,
    (answers_writeReg_getV rfl).mono fun _ ⟨hwrites, hb⟩ => ⟨hwrites, fun j => by rw [hb, BitVec.getLsbD_or]⟩,
    (answers_writeReg_getV rfl).mono fun _ ⟨hwrites, hb⟩ => ⟨hwrites, fun j => by rw [hb, BitVec.getLsbD_and]⟩,
    (answers_writeReg_getV rfl).mono fun _ ⟨hwrites, hb⟩ => ⟨hwrites, fun j => by rw [hb, BitVec.getLsbD_xor]⟩⟩

/-- Settles O29: the sum, then the carry. -/
theorem addWithCarry : Obligations.AddWithCarry := by
  unfold Obligations.AddWithCarry
  intro x y s
  exact ⟨encodedAs_of_mask (encodeXYN_mask 0x8 x y 0x4),
    answers_writeRegFlag rfl (BitVec.toNat_add _ _) (toNat_flagByte_addCarry_eq_ite _ _)⟩

/-- Settles O30: the difference, then the complement of the borrow, for the two orders of the operands. -/
theorem subtractionsWithBorrow : Obligations.SubtractionsWithBorrow := by
  unfold Obligations.SubtractionsWithBorrow
  intro x y s
  exact ⟨encodedAs_of_mask (encodeXYN_mask 0x8 x y 0x5), encodedAs_of_mask (encodeXYN_mask 0x8 x y 0x7),
    answers_writeRegFlag rfl (toNat_sub_byte _ _) (toNat_flagByte_notBorrow _ _),
    answers_writeRegFlag rfl (toNat_sub_byte _ _) (toNat_flagByte_notBorrow _ _)⟩

/-- Settles O31: VY halved or doubled, then the bit shifted out. -/
theorem shiftsTakeVy : Obligations.ShiftsTakeVy := by
  unfold Obligations.ShiftsTakeVy
  intro x y s
  have hhalf : (s.getV y >>> 1).toNat = (s.getV y).toNat / 2 := Nat.shiftRight_eq_div_pow _ 1
  have hdouble : (s.getV y <<< 1).toNat = (s.getV y).toNat * 2 % 256 := by
    rw [BitVec.toNat_shiftLeft, Nat.shiftLeft_eq]
  exact ⟨encodedAs_of_mask (encodeXYN_mask 0x8 x y 0x6), encodedAs_of_mask (encodeXYN_mask 0x8 x y 0xE),
    answers_writeRegFlag rfl hhalf (toNat_flagByte_rightBitOut _),
    answers_writeRegFlag rfl hdouble (toNat_flagByte_leftBitOut _)⟩

/-- Settles O33: the latched byte AND NN is written to VX, whatever the byte. -/
theorem randomByteIsMasked : Obligations.RandomByteIsMasked := by
  unfold Obligations.RandomByteIsMasked
  intro x nn s
  exact ⟨encodedAs_of_mask (encodeXNN_mask 0xC x nn), answers_writeReg rfl⟩

end Sys2Proof.Machine
end

section
/-! PROOFS. The index register and memory: ANNN, FX1E and FX29 write I (R104 to R106), FX33 and FX55 store a block of
bytes at I (R107, R108), and FX65 loads one (R109). A store is said once, for any block (`answers_storeAtI`). -/

namespace Sys2Proof.Machine

/-! ## Blocks at I (R41, R43) -/

/-- An instruction with an address of its block above 0xFFF is its data fault, which names I or 0x1000. -/
theorem exec_of_block_above {i : Instr} {s : State} {k : Nat} (hk : k < dataCount i) (h : 0xFFF < s.i.toNat + k) :
    exec i s = .next (faulted s .dataBounds (encode i) (max s.i.toNat 0x1000)) :=
  exec_of_dataFault (dataFault?_eq_some.mpr ⟨by omega, by rw [memTop_eq]; omega, rfl⟩)

/-- The bytes `bs` were stored at I, every other byte of memory was kept, and PC is 2 more (R43). -/
structure StoresBlock (bs : List Byte) (s t : State) : Prop where
  inside  : ∀ k, k < bs.length → t.mem.read (s.i.toNat + k) = bs.getD k 0
  outside : ∀ a, (a < s.i.toNat ∨ s.i.toNat + bs.length ≤ a) → t.mem.read a = s.mem.read a
  pc      : t.pc = s.pc + 2
  frame   : OnlyChanges [.mem, .pc] s t

/-- An instruction that stores `bs` at I, with the block inside memory. -/
theorem answers_storeAtI {i : Instr} {w : Word} {bs : List Byte} {s : State} (h : exec i s = storeAtI w bs s)
    (hwf : s.mem.wf = true) (hfits : s.i.toNat + bs.length ≤ 0x1000) : Answers (exec i s) (StoresBlock bs s) := by
  have hbounds : s.i.toNat + bs.length ≤ Config.memTop + 1 := hfits
  rcases storeAtI_cases w bs s with ⟨a, hfault, -⟩ | ⟨-, hstore⟩
  · rw [dataFault?_eq_none.mpr (.inr hbounds)] at hfault
    cases hfault
  · have hread := Memory.read_writeBytes hwf hbounds
    refine ⟨_, h.trans hstore, fun k hk => ?inside, fun a ha => ?outside, rfl, ?frame⟩
    case inside =>
      refine (hread _).trans ?_
      rw [if_pos (by omega), Nat.add_sub_cancel_left]
    case outside => exact (hread a).trans (if_neg (by omega))
    case frame => exact (onlyChanges_setMem s _ (.head _)).trans (onlyChanges_advance _ (.tail _ (.head _)))

/-- FX65 with its block inside memory (R109). -/
theorem exec_loadRegs_of_fits {x : Reg} {s : State} (hfits : s.i.toNat + x.val ≤ 0xFFF) :
    exec (.loadRegs x) s = .next (State.advance { s with v := loadBlock s.v s.mem s.i.toNat x }) := by
  have hbounds : dataFault? s.i (x.val + 1) = none := dataFault?_eq_none.mpr (.inr (by rw [memTop_eq]; omega))
  simp only [exec, execLoadRegs, hbounds]

/-! ## Writes of I (R21, R104 to R106) -/

/-- An instruction that writes the word `a` to I. -/
theorem answers_writeI {i : Instr} {a : Word} {s : State} (h : exec i s = writeI a s) {n : Nat} (ha : a.toNat = n) :
    Answers (exec i s) fun t => t.i.toNat = n ∧ t.pc = s.pc + 2 ∧ OnlyChanges [.i, .pc] s t :=
  ⟨_, h, ha, rfl, (onlyChanges_setI s a (.head _)).trans (onlyChanges_advance _ (.tail _ (.head _)))⟩

theorem toNat_add_byteOperand (a : Word) (b : Byte) : (a + byteOperand b).toNat = (a.toNat + b.toNat) % 65536 := by
  rw [BitVec.toNat_add, toNat_byteOperand]

/-- The largest glyph address is 5 times 255, so it never wraps (R106). -/
theorem toNat_glyphAddress (b : Byte) : (glyphAddress b).toNat = b.toNat * 5 := by
  have hb : b.toNat * 5 < 2 ^ 16 := by omega
  rw [glyphAddress, BitVec.toNat_mul, toNat_byteOperand]
  exact Nat.mod_eq_of_lt hb

/-! ## The obligations -/

/-- Settles O36: the block at I is the three digits. -/
theorem decimalDigitsStored : Obligations.DecimalDigitsStored := by
  unfold Obligations.DecimalDigitsStored
  intro x s hwf
  refine ⟨encodedAs_of_mask (encodeX_mask 0xF x 0x33), fun hfits => ?_,
    exec_of_block_above (i := .ldB x) (k := 2) (Nat.lt_succ_self 2)⟩
  have hlen : (decimalDigits (s.getV x)).length = 3 := rfl
  have hstores := answers_storeAtI (i := .ldB x) (bs := decimalDigits (s.getV x)) rfl hwf (by omega)
  refine hstores.mono fun t ht => ⟨?hundreds, ?tens, ?units, fun a ha => ht.outside a (by omega), ht.pc, ht.frame⟩
  case hundreds => exact (congrArg BitVec.toNat (ht.inside 0 (by omega))).trans BitVec.toNat_udiv
  case tens =>
    refine (congrArg BitVec.toNat (ht.inside 1 (by omega))).trans ?_
    exact BitVec.toNat_umod.trans (congrArg (· % 10) BitVec.toNat_udiv)
  case units => exact (congrArg BitVec.toNat (ht.inside 2 (by omega))).trans BitVec.toNat_umod

/-- Settles O37: the block at I is V0..VX. -/
theorem registersStored : Obligations.RegistersStored := by
  unfold Obligations.RegistersStored
  intro x s hwf
  refine ⟨encodedAs_of_mask (encodeX_mask 0xF x 0x55), fun hfits => ?_,
    exec_of_block_above (i := .storeRegs x) (Nat.lt_succ_self x.val)⟩
  have hlen := length_regBlock s.v x
  have hstores := answers_storeAtI (i := .storeRegs x) (bs := regBlock s.v x) rfl hwf (by omega)
  refine hstores.mono fun t ht => ⟨fun k hk => ?_, fun a ha => ht.outside a (by omega), ht.pc, ht.frame⟩
  have hkx : k.val ≤ x.val := hk
  exact (ht.inside k.val (by omega)).trans (getD_regBlock s.v hk)

/-- Settles O38: register k is the byte at I + k up to VX, and itself above. -/
theorem registersLoaded : Obligations.RegistersLoaded := by
  unfold Obligations.RegistersLoaded
  intro x s
  refine ⟨encodedAs_of_mask (encodeX_mask 0xF x 0x65), fun hfits => ?_,
    exec_of_block_above (i := .loadRegs x) (Nat.lt_succ_self x.val)⟩
  have hreg (k : Reg) := getElem_loadBlock s.v s.mem s.i.toNat x k
  refine ⟨_, exec_loadRegs_of_fits hfits, fun k hk => (hreg k).trans (if_pos hk),
    fun k hk => (hreg k).trans (if_neg (not_le_of_gt hk)), rfl, ?_⟩
  exact (onlyChanges_regs s _ (.head _)).trans (onlyChanges_advance _ (.tail _ (.head _)))

/-- Settles O39: FX65 loads the bytes that FX55 stored, from the same addresses. -/
theorem storeThenLoadRestores : Obligations.StoreThenLoadRestores := by
  unfold Obligations.StoreThenLoadRestores
  intro x s hwf hfits
  obtain ⟨-, hstore, -⟩ := registersStored x s hwf
  refine (hstore hfits).mono fun t ⟨hstored, _⟩ u hmem hi => ?_
  obtain ⟨-, hload, -⟩ := registersLoaded x u
  refine (hload (hi ▸ hfits)).mono fun w ⟨hloaded, _⟩ k hk => ?_
  rw [hloaded k hk, hmem, hi, hstored k hk]

/-- Settles O35: each is the shared write of I, with its own sum or product as a number. -/
theorem indexWrites : Obligations.IndexWrites := by
  unfold Obligations.IndexWrites
  exact ⟨fun nnn s => ⟨encodedAs_of_mask (encodeA_mask 0xA nnn), answers_writeI rfl (toNat_addrOperand nnn)⟩,
    fun x s => ⟨encodedAs_of_mask (encodeX_mask 0xF x 0x1E), encodedAs_of_mask (encodeX_mask 0xF x 0x29),
      answers_writeI rfl (toNat_add_byteOperand _ _), answers_writeI rfl (toNat_glyphAddress _)⟩⟩

end Sys2Proof.Machine
end

section
/-! PROOFS. Keypad and timers: the key skips EX9E and EXA1 (R111 to R114), the wait for a key FX0A (R116, R119) and the
timer instructions FX07, FX15 and FX18 (R115, R117, R118). A key skip is said once, for either level
(`answers_skipOnKey`). -/

namespace Sys2Proof.Machine

/-! ## The key skips (R111 to R114) -/

/-- KEY after a key skip has read the key `k` (R112). -/
theorem key_afterKeyRead (s : State) (k j : Fin 16) :
    (s.afterKeyRead k).key[j] = if s.params.keyClearOnRead = true ∧ k = j then false else s.key[j] := by
  unfold State.afterKeyRead
  cases s.params.keyClearOnRead
  · rfl
  · simp [Vector.getElem_set, Fin.ext_iff]

theorem afterKeyRead_pc (s : State) (k : Fin 16) : (s.afterKeyRead k).pc = s.pc := by
  unfold State.afterKeyRead
  split <;> rfl

section
variable {i : Instr} {w : Word} {b : Byte} {wanted : Bool} {s : State}

/-- A key skip whose register value is the number of the key `k`. -/
theorem answers_skipOnKey (h : exec i s = skipOnKey w b wanted s) {k : Fin 16} (hb : b.toNat = k.val) :
    Answers (exec i s) fun t =>
      t.pc = (if s.key[k] = wanted then s.pc + 4 else s.pc + 2)
      ∧ t.key[k] = (if s.params.keyClearOnRead then false else s.key[k])
      ∧ (∀ j : Fin 16, j ≠ k → t.key[j] = s.key[j]) ∧ OnlyChanges [.key, .pc] s t := by
  have hskip : exec i s = .next ((s.afterKeyRead k).skipIf (s.key[k] == wanted)) := by
    rw [h, skipOnKey, keyOperand?_eq_some.mpr hb]
  refine ⟨_, hskip, ?pc, ?read, fun j hj => ?others, ?frame⟩
  case pc => simp only [State.skipIf_eq, State.goto_pc, afterKeyRead_pc, beq_iff_eq]
  case read => simp only [State.skipIf_eq, State.goto_key, key_afterKeyRead, and_true]
  case others => simp only [State.skipIf_eq, State.goto_key, key_afterKeyRead, hj.symm, and_false, if_false]
  case frame =>
    exact (onlyChanges_afterKeyRead s k (.head _)).trans (onlyChanges_skipIf _ _ (.tail _ (.head _)))

/-- A key skip whose register value names no key: the fault, before any write (R111). -/
theorem exec_skipOnKey_of_no_key (h : exec i s = skipOnKey w b wanted s) (hb : 15 < b.toNat) :
    exec i s = .next (faulted s .keyIndex w b.toNat) := by
  rw [h, skipOnKey, keyOperand?_eq_none.mpr hb]
  exact congrArg Host.Outcome.next (raise_eq_faulted s _ w _)

end

/-! ## The wait for a key (R116, R119) -/

theorem exec_ldVxK_of_lowest {s : State} {k : Fin 16} (hk : s.key[k] = true)
    (hlow : ∀ j : Fin 16, j < k → s.key[j] = false) (x : Reg) :
    exec (.ldVxK x) s = writeReg x (BitVec.ofNat 8 k.val) s := by
  simp only [exec, execLdVxK, lowestKeyDown_eq_some.mpr ⟨hk, hlow⟩]
  rfl

theorem exec_ldVxK_of_no_key {s : State} (h : ∀ k : Fin 16, s.key[k] = false) (x : Reg) :
    exec (.ldVxK x) s = .next s := by
  simp only [exec, execLdVxK, lowestKeyDown_eq_none.mpr h]

/-- The number of a key fits into a byte. -/
theorem toNat_ofNat_key (k : Fin 16) : (BitVec.ofNat 8 k.val).toNat = k.val :=
  Nat.mod_eq_of_lt (k.isLt.trans (by decide))

/-! ## The obligations -/

/-- Settles O43: EX9E wants the key down and EXA1 wants it up; VX names a key exactly when it is at most 15. -/
theorem keySkips : Obligations.KeySkips := by
  unfold Obligations.KeySkips
  intro x s
  have hskp : exec (.skp x) s = skipOnKey (encode (.skp x)) (s.getV x) true s := rfl
  have hsknp : exec (.sknp x) s = skipOnKey (encode (.sknp x)) (s.getV x) false s := rfl
  exact ⟨encodedAs_of_mask (encodeX_mask 0xE x 0x9E), encodedAs_of_mask (encodeX_mask 0xE x 0xA1),
    fun k hk => ⟨answers_skipOnKey hskp hk, answers_skipOnKey hsknp hk⟩,
    fun hx => ⟨exec_skipOnKey_of_no_key hskp hx, exec_skipOnKey_of_no_key hsknp hx⟩⟩

/-- Settles O44: the least key that is down is written to VX, and with none down the state is answered as it was. -/
theorem waitForKey : Obligations.WaitForKey := by
  unfold Obligations.WaitForKey
  intro x s
  refine ⟨encodedAs_of_mask (encodeX_mask 0xF x 0x0A), fun k hk hlow => ?_, fun h => exec_ldVxK_of_no_key h x⟩
  exact (answers_writeReg_getV (exec_ldVxK_of_lowest hk hlow x)).mono fun t ⟨hwrites, hb⟩ =>
    ⟨by rw [hb, toNat_ofNat_key], hwrites⟩

/-- Settles O45: the cycle runs FX0A, which reads no random byte and writes nothing; what is left is the end of the cycle. -/
theorem waitingCycleChangesNothingElse : Obligations.WaitingCycleChangesNothingElse := by
  unfold Obligations.WaitingCycleChangesNothingElse
  intro x r s hs hpc hd hkeys
  have hfetch : s.pc.toNat + 1 ≤ Config.memTop := by rw [memTop_eq]; omega
  calc cycle r s
    _ = runInstr (.ldVxK x) r s := cycle_of_decodeWord hs hfetch hd r
    _ = mapNext (fun t => (complete (.ldVxK x) t).setRnd s.rnd) (exec (.ldVxK x) s) :=
      runInstr_of_rnd_unread (i := .ldVxK x) nofun r s
    _ = .next ((complete (.ldVxK x) s).setRnd s.rnd) := by rw [exec_ldVxK_of_no_key hkeys, mapNext]
    _ = .next { s with redraw := false, err := .noReport } := by rw [complete_of_running hs]; rfl

/-- Settles O46: each writes one piece of the state, then PC + 2. -/
theorem timerReadAndWrites : Obligations.TimerReadAndWrites := by
  unfold Obligations.TimerReadAndWrites
  intro x s
  refine ⟨encodedAs_of_mask (encodeX_mask 0xF x 0x07), encodedAs_of_mask (encodeX_mask 0xF x 0x15),
    encodedAs_of_mask (encodeX_mask 0xF x 0x18), answers_writeReg rfl, ⟨_, rfl, rfl, rfl, ?dt⟩, ⟨_, rfl, rfl, rfl, ?st⟩⟩
  case dt => exact (onlyChanges_setDt s _ (.head _)).trans (onlyChanges_advance _ (.tail _ (.head _)))
  case st => exact (onlyChanges_setSt s _ (.head _)).trans (onlyChanges_advance _ (.tail _ (.head _)))

end Sys2Proof.Machine
end

section
/-! PROOFS. Exceptions: an instruction's one fault kind (R124), the tick (R129), the host's transactions in every STATUS
(R133 to R135, R139), and that nothing leaves HALTED or STOPPED (R123, R125). -/

namespace Sys2Proof.Machine

/-! ## The tick (R129) -/

/-- A timer counts down to 0 and no further, which is subtraction on the natural numbers. -/
theorem toNat_countDown (b : Byte) : (countDown b).toNat = b.toNat - 1 := by
  unfold countDown
  split
  case isTrue hzero => simp [hzero]
  case isFalse hpos => bv_omega

theorem onlyChanges_timers (s : State) (dt st : Byte) (due : Bool) :
    OnlyChanges [.dt, .st, .audioDue] s { s with dt := dt, st := st, audioDue := due } :=
  fun p hp => by cases p <;> simp_all [Part.same, State.getV]

/-! ## The host's transactions (R133, R134, R139) -/

theorem key_setKey (s : State) (k j : Fin 16) (d : Bool) : (s.setKey k d).key[j] = if k = j then d else s.key[j] := by
  simp [Vector.getElem_set, Fin.ext_iff]

theorem onlyChanges_audioAck (s : State) : OnlyChanges [.audioDue] s (audioAck s) :=
  fun p hp => by cases p <;> simp_all [Part.same, audioAck, State.getV]

theorem shutdown_of_running {s : State} (h : s.status = .running) : shutdown s = { s with status := .stopped } := by
  rw [shutdown, h]

theorem shutdown_of_not_running {s : State} (h : s.status ≠ .running) : shutdown s = s := by
  unfold shutdown
  split
  · contradiction
  · rfl
  · rfl

theorem shutdown_eq (s : State) :
    shutdown s = { s with status := if s.status = .running then .stopped else s.status } := by
  by_cases hs : s.status = .running
  · rw [shutdown_of_running hs, if_pos hs]
  · rw [shutdown_of_not_running hs, if_neg hs]

theorem onlyChanges_status (s : State) (x : Status) : OnlyChanges [.status] s { s with status := x } :=
  fun p hp => by cases p <;> simp_all [Part.same, State.getV]

/-! ## A core that does not run (R123, R125) -/

/-- STATUS and FAULT are the same in both states. -/
def KeepsStatusAndFault (s t : State) : Prop := t.status = s.status ∧ t.fault = s.fault

theorem applyTransaction_keepsStatusAndFault (x : Transaction) {s : State} (h : s.status ≠ .running) :
    Answers (applyTransaction x s) (KeepsStatusAndFault s) := by
  cases x with
  | cycle r => exact ⟨s, cycle_of_not_running h, rfl, rfl⟩
  | tick => exact ⟨s, congrArg Host.Outcome.next (tick_of_not_running h), rfl, rfl⟩
  | step doCycle doTick r => exact ⟨s, stepBoth_of_not_running h doCycle doTick r, rfl, rfl⟩
  | keyWrite k down => exact ⟨s.setKey k down, rfl, rfl, rfl⟩
  | audioAck => exact ⟨audioAck s, rfl, rfl, rfl⟩
  | shutdown => exact ⟨s, congrArg Host.Outcome.next (shutdown_of_not_running h), rfl, rfl⟩
  | read => exact ⟨s, rfl, rfl, rfl⟩

/-! ## The obligations -/

/-- Settles O15: an instruction that does not raise its fault keeps all control state, STATUS and FAULT with it. -/
theorem oneFaultKindPerInstruction : Obligations.OneFaultKindPerInstruction := by
  unfold Obligations.OneFaultKindPerInstruction
  intro i s
  rcases exec_cases i s with ⟨c, a, hkind, h⟩ | ⟨t, h, hkeeps⟩
  · exact ⟨_, h, .inr ⟨c, a, hkind, raise_eq_faulted s c _ a⟩⟩
  · exact ⟨t, h, .inl ⟨hkeeps.status, hkeeps.fault⟩⟩

/-- Settles O48: both timers are counted down in a core that runs, and the tick is the identity in one that does not. -/
theorem tickCountsDown : Obligations.TickCountsDown := by
  unfold Obligations.TickCountsDown
  intro s
  refine ⟨fun hs => ?_, tick_of_not_running⟩
  rw [tick_of_running hs]
  refine ⟨toNat_countDown s.dt, toNat_countDown s.st, ?due, onlyChanges_timers s _ _ _⟩
  case due =>
    by_cases hst : s.st = 1
    · simp [hst]
    · rw [if_neg hst, beq_false_of_ne hst, Bool.or_false]

/-- Settles O51: each transaction writes one piece of the state; a read writes none. -/
theorem hostTransactions : Obligations.HostTransactions := by
  unfold Obligations.HostTransactions
  intro s
  refine ⟨fun k d => ⟨s.setKey k d, rfl, ?written, fun j hj => ?others, onlyChanges_setKey s k d (.head _)⟩,
    ⟨audioAck s, rfl, rfl, onlyChanges_audioAck s⟩, ⟨_, congrArg Host.Outcome.next (shutdown_eq s), rfl, onlyChanges_status s _⟩, rfl⟩
  case written => rw [key_setKey, if_pos rfl]
  case others => rw [key_setKey, if_neg hj.symm]

/-- Settles O53: by the head of the inbox, whose removal writes neither field; a free cycle is the identity. -/
theorem noStepResumesTheCore : Obligations.NoStepResumesTheCore := by
  unfold Obligations.NoStepResumesTheCore
  intro s hs
  cases hi : s.inbox with
  | nil => exact ⟨s, (step_of_empty_inbox hi).trans (freeCycle_of_not_running hs), rfl, rfl⟩
  | cons x rest =>
    have hrest : ({ s with inbox := rest } : State).status ≠ .running := hs
    rw [step_of_inbox hi]
    exact applyTransaction_keepsStatusAndFault x hrest

end Sys2Proof.Machine
end

section
/-! PROOFS. Construction: which ROMs Construct refuses and which it builds a core from (R141, R142). -/

namespace Sys2Proof.Machine

theorem romFits_iff (rom : List Byte) : romFits rom = true ↔ rom.length ≤ 3583 :=
  decide_eq_true_iff

theorem construct_of_length_le {rom : List Byte} (h : rom.length ≤ 3583) (font : Vector Byte 80) (p : Params) :
    construct rom font p = .ok { State.reset with mem := constructMemory rom font, params := p } :=
  if_pos ((romFits_iff rom).mpr h)

theorem construct_of_lt_length {rom : List Byte} (h : 3583 < rom.length) (font : Vector Byte 80) (p : Params) :
    construct rom font p = .error (.romTooLarge rom.length) :=
  if_neg fun hfits => Nat.not_le_of_lt h ((romFits_iff rom).mp hfits)

/-- Settles O56: the bound that Construct tests is 3583 bytes, and each branch gives its answer. -/
theorem constructRefusesLongRoms : Obligations.ConstructRefusesLongRoms := by
  unfold Obligations.ConstructRefusesLongRoms
  intro rom font p
  exact ⟨fun h => construct_of_lt_length h font p, fun h => ⟨_, construct_of_length_le h font p⟩⟩

end Sys2Proof.Machine
end
